-- ==== Sys2Proof/Word.lean ====
section
/-! DEFINITION. Sys2Proof/Word.lean: the one word of this hardware, the byte (00_scope.md section 4, 20_memory.md R40). -/

namespace Sys2Proof

/-- "A byte is 8 bits, an unsigned value 0..255" (00_scope.md section 4). -/
abbrev Byte := BitVec 8

/-- A sequence of bytes: a stream, or the contents of a memory written out. -/
abbrev Bytes := List Byte

end Sys2Proof
end

