-- ==== Sys2Proof/Config.lean ====
section
/-! DEFINITION. Sys2Proof/Config.lean: the constant parameter set (00_scope.md R3, R5) and the two parameters of the
implementation that the spec leaves open (R6, R7). Nothing here is State (10_state.md R29). -/

namespace Sys2Proof.Config

/-- `N`: bytes in the decoder's window, and the largest back-distance (R3). Not a power of two. -/
abbrev windowSize : Nat := 1023

/-- `OFFSET_BITS` (R3). -/
abbrev offsetBits : Nat := 10

/-- `LENGTH_BITS` (R3). -/
abbrev lengthBits : Nat := 6

/-- `MIN_MATCH`: the shortest match that is emitted as a token (R3). -/
abbrev minMatch : Nat := 3

/-- `MAX_MATCH`: the longest match length a token carries (R3). -/
abbrev maxMatch : Nat := 63

/-- `TOKEN_BYTES` (R3). -/
abbrev tokenBytes : Nat := 2

/-- `GROUP`: items per group, bits per flag byte (R3). -/
abbrev group : Nat := 8

/-- `MIN_OFFSET`: the smallest back-distance the MatchFinder tries (R5; a constant of its own, D21). -/
abbrev minOffset : Nat := 3

/-- `WINDOW_FILL`: what every window slot holds before decoding starts (R5, R223). -/
abbrev windowFill : Byte := 0x11#8

/-- `ALIGN`: the boundary the padded modes bring the compressed total to (R5). -/
abbrev align : Nat := 16

/-- Capacity of the open group's item memory: 8 items of at most 2 bytes (10_state.md R15). -/
abbrev itemsSize : Nat := 16

/-- `TEMPLATE`: the repeating 17-byte filler of exact-pad (R5). -/
def template : Bytes := 0xFF#8 :: List.replicate 16 0x00#8

/-- `PAD_TABLE`: "treat it as a fixed lookup contract rather than re-deriving it" (R5, R121, U2). -/
def padTable : List Nat := [0, 1, 18, 3, 20, 5, 22, 7, 24, 9, 26, 11, 28, 13, 30, 15, 0]

/-- By how much `LOOKAHEAD_CAP` exceeds 63. An open parameter of the hardware (R6, D3, U9): it has no body, so no proof
can use a value of it. -/
opaque lookaheadExtra : Nat

/-- `LOOKAHEAD_CAP`: "the decoder-side lookahead capacity", any natural that is at least 63 (R6). -/
def lookaheadCap : Nat := lookaheadExtra + 63

/-- `IN_CAP`: the largest input length ENC accepts, in bytes (R7, D19, U10). It has no body: any natural. -/
opaque inCap : Nat

end Sys2Proof.Config
end

