-- ==== Sys2Proof/Machine/State.lean ====
section
/-! DEFINITION. Sys2Proof/Machine/State.lean: everything the spec gives the machine (10_state.md R10 to R28), as plain
data, and the state after power-on reset. Names in comments are the spec's. -/

namespace Sys2Proof.Machine

/-- The three byte memories (20_memory.md R40). "There is no common address space: an index is meaningful only together
with the memory it indexes." -/
inductive Space where
  | inp
  | items
  | win
deriving DecidableEq, Repr

/-- What an index that is not listed reads as. For `WIN` it is `WINDOW_FILL`, so a window filled with 0x11 (R21, R222)
lists nothing. DESIGN CHOICE for what a memory holds after power-on, which the spec leaves unspecified (R28): log 4. -/
def Space.unlisted : Space → Byte
  | .inp => 0x00#8
  | .items => 0x00#8
  | .win => Config.windowFill

/-- A byte memory: index and byte, indices strictly rising, no entry equal to what an unlisted index reads as. -/
abbrev Memory := List Host.Cell

/-- `OP` (R11). -/
inductive Op where
  | compress
  | decompress
deriving DecidableEq, Repr

/-- `PAD_MODE` (R11, R115). -/
inductive PadMode where
  | default
  | noPad
  | exactPad
deriving DecidableEq, Repr

/-- `ENC.STATE` (R17). -/
inductive EncState where
  | idle
  | run
  | nopFill
  | finalFlush
  | zeroPad
  | templatePad
  | done
deriving DecidableEq, Repr

/-- `DEC.STATE` (R26). -/
inductive DecState where
  | idle
  | readFlagByte
  | dispatch
  | readLiteral
  | readToken1
  | readToken2
  | copy
  | done
deriving DecidableEq, Repr

/-- The MatchFinder's working registers (R14). -/
structure Mf where
  /-- `MF.REMAIN` -/
  remain : Nat
  /-- `MF.LIMIT` -/
  limit : Nat
  /-- `MF.OFS` -/
  ofs : Nat
  /-- `MF.MAXCHK` -/
  maxchk : Nat
  /-- `MF.K` -/
  k : Nat
  /-- `MF.BESTO` -/
  besto : Nat
  /-- `MF.BESTL` -/
  bestl : Nat
deriving DecidableEq, Repr

/-- The TokenPacker's registers and memory (R15). -/
structure Tp where
  /-- `TP.FLAGS` -/
  flags : Byte
  /-- `TP.NITEMS` -/
  nitems : Nat
  /-- `TP.ITEMS` -/
  items : Memory
  /-- `TP.NBYTES` -/
  nbytes : Nat
deriving DecidableEq, Repr

/-- The padding controller's scratch registers (R18). -/
structure Pc where
  /-- `PC.SHORT` -/
  short : Nat
  /-- `PC.PADCNT` -/
  padcnt : Nat
  /-- `PC.TIDX` -/
  tidx : Nat
deriving DecidableEq, Repr

/-- The compression engine ENC (R12 to R18). -/
structure Enc where
  /-- `ENC.STATE` -/
  state : EncState
  /-- `ENC.IN` -/
  inMem : Memory
  /-- `ENC.L` -/
  len : Nat
  /-- `ENC.P` -/
  p : Nat
  /-- `MF.*` -/
  mf : Mf
  /-- `TP.*` -/
  tp : Tp
  /-- `PC.*` -/
  pc : Pc
  /-- `ENC.OUT`, first byte first -/
  out : Bytes
  /-- `ENC.TOTAL` -/
  total : Nat
  /-- `ENC.CSIZE` -/
  csize : Nat
deriving DecidableEq, Repr

/-- The decompression engine DEC (R19 to R26). -/
structure Dec where
  /-- `DEC.STATE` -/
  state : DecState
  /-- `DEC.SRC`, first byte first; `EOF` after its last byte -/
  src : Bytes
  /-- `DEC.IPOS` -/
  ipos : Nat
  /-- `DEC.FLG` -/
  flg : Byte
  /-- `DEC.FCNT` -/
  fcnt : Nat
  /-- `DEC.WIN` -/
  win : Memory
  /-- `DEC.CUR` -/
  cur : Nat
  /-- `DEC.B1` -/
  b1 : Byte
  /-- `DEC.OFF` -/
  off : BitVec 10
  /-- `DEC.LEN` -/
  len : BitVec 6
  /-- `DEC.SRCP` -/
  srcp : Nat
  /-- `DEC.DSTP` -/
  dstp : Nat
  /-- `DEC.REM` -/
  rem : Nat
  /-- `DEC.STG` -/
  stg : Byte
  /-- `DEC.OUT`, first byte first -/
  out : Bytes
  /-- `DEC.OCNT` -/
  ocnt : Nat
deriving DecidableEq, Repr

/-- The whole machine: the host's configuration (R11), the host's pending START (60_exceptions.md R209; DESIGN CHOICE,
log 8) and the two engines, which share nothing else (R10). `LOOKAHEAD_CAP` and `IN_CAP` are constants, not state (R29). -/
structure State where
  /-- `OP` -/
  op : Op
  /-- `PAD_MODE` -/
  padMode : PadMode
  /-- `OUT_LIMIT` -/
  outLimit : Option Nat
  /-- the host has given START and no step has performed it yet -/
  start : Bool
  /-- ENC -/
  enc : Enc
  /-- DEC -/
  dec : Dec
deriving DecidableEq, Repr

/-- Why the model stops. The CORE itself "raises no exception, trap or fault" (R200). -/
inductive Fault where
  /-- An index outside its memory. Raised by the memory accesses of `Ops`; no state that keeps `State.Inv` raises it
  (R41, R42, R43). Safe. Log 11. -/
  | indexOutOfRange (sp : Space) (index : Nat)
  /-- A copy step with `REM = 0`, for which R145 has no row. Raised by the copy engine; no state that keeps `State.Inv`
  raises it. Safe. Log 12. -/
  | copyWithoutBytes
  /-- START while the selected engine is running: "the model gives it no step" (R209, U6: stuck). Raised by `step`.
  Safe. Log 9. -/
  | startWhileRunning
  /-- The host writes configuration, `IN` or `SRC` of a running engine (R210, R238). Raised by the host's operations of
  `HostPort`, never by `step`. Safe. Log 18. -/
  | configWhileRunning
deriving DecidableEq, Repr

/-- What the model turns down. -/
inductive Refusal where
  /-- An instruction with no meaning yet. Raised by `exec` only; no arm does. Safe. -/
  | notModelled (mnemonic : String)
  /-- START of ENC with `L > IN_CAP`: "what hardware does with a larger input is outside this spec" (R211, U5: refuse).
  Raised by `step`. Safe. Log 2. -/
  | inputTooLarge
deriving DecidableEq, Repr

/-- Power-on reset: "both engines `Idle`, `ENC.OUT` and `DEC.OUT` empty, everything else unspecified" (R220, R28). What
the spec leaves unspecified is zero here: DESIGN CHOICE, logs 3, 4, 5. -/
def State.reset : State where
  op := .compress
  padMode := .default
  outLimit := none
  start := false
  enc :=
    { state := .idle, inMem := [], len := 0, p := 0
      mf := { remain := 0, limit := 0, ofs := 0, maxchk := 0, k := 0, besto := 0, bestl := 0 }
      tp := { flags := 0x00#8, nitems := 0, items := [], nbytes := 0 }
      pc := { short := 0, padcnt := 0, tidx := 0 }
      out := [], total := 0, csize := 0 }
  dec :=
    { state := .idle, src := [], ipos := 0, flg := 0x00#8, fcnt := 0, win := [], cur := 0
      b1 := 0x00#8, off := 0#10, len := 0#6, srcp := 0, dstp := 0, rem := 0, stg := 0x00#8
      out := [], ocnt := 0 }

end Sys2Proof.Machine
end

