-- ==== Sys2Proof/Machine/Ops.lean ====
section
/-! DEFINITION. Sys2Proof/Machine/Ops.lean: the primitives of 00_scope.md section 4, `MemRead`, `MemWrite`, `SrcNext`,
`Emit` and `stop(Done)`.

There is no exception to take and none to return from (60_exceptions.md R200, R205, R206): `raise` is never used, and "the
nearest thing is reaching `Done`", which is `Enc.stop` and `Dec.stop`. -/

namespace Sys2Proof.Machine

/-! ## One memory -/

/-- The byte at an index; `d` is what an unlisted index reads as. -/
def Memory.read (d : Byte) : Memory → Nat → Byte
  | [], _ => d
  | (a, b) :: m, x => if a = x then b else Memory.read d m x

/-- Store a byte, keeping the indices rising and listing no entry equal to `d`. -/
def Memory.write (d : Byte) : Memory → Nat → Byte → Memory
  | [], x, v => if v = d then [] else [(x, v)]
  | (a, b) :: m, x, v =>
    if x < a then (if v = d then (a, b) :: m else (x, v) :: (a, b) :: m)
    else if x = a then (if v = d then m else (x, v) :: m)
    else (a, b) :: Memory.write d m x v

/-- The canonical form of a memory of `size` bytes. -/
abbrev Memory.wf (d : Byte) (size : Nat) (m : Memory) : Prop :=
  m.Pairwise (fun c e => c.1 < e.1) ∧ ∀ c ∈ m, c.2 ≠ d ∧ c.1 < size

/-- The memory that holds `bs` from index `i` on and lists nothing else. -/
def Memory.ofBytes (d : Byte) : Nat → Bytes → Memory
  | _, [] => []
  | i, b :: bs => if b = d then Memory.ofBytes d (i + 1) bs else (i, b) :: Memory.ofBytes d (i + 1) bs

/-- The bytes at `n` indices from `i` on, in order. -/
def Memory.bytes (d : Byte) (m : Memory) : Nat → Nat → Bytes
  | _, 0 => []
  | i, n + 1 => Memory.read d m i :: Memory.bytes d m (i + 1) n

/-! ## Access to a space -/

/-- `MemRead(S, a, 1)`: "the index must be in range" (00_scope.md section 4); one outside is the model's fault (log 11). -/
def memRead (sp : Space) (size : Nat) (m : Memory) (a : Nat) : Except Fault Byte :=
  if a < size then .ok (m.read sp.unlisted a) else .error (.indexOutOfRange sp a)

/-- `MemWrite(S, a, 1, v)`. -/
def memWrite (sp : Space) (size : Nat) (m : Memory) (a : Nat) (v : Byte) : Except Fault Memory :=
  if a < size then .ok (m.write sp.unlisted a v) else .error (.indexOutOfRange sp a)

/-! ## ENC's primitives -/

/-- `MemRead(IN, a, 1)`; `IN` has `L` bytes (R12, R40). -/
def Enc.readIn (e : Enc) (a : Nat) : Except Fault Byte := memRead .inp e.len e.inMem a

/-- `MemRead(ITEMS, a, 1)` (R42). -/
def Enc.readItem (e : Enc) (a : Nat) : Except Fault Byte := memRead .items Config.itemsSize e.tp.items a

/-- `MemWrite(ITEMS, a, 1, v)` (R42). -/
def Enc.writeItem (e : Enc) (a : Nat) (v : Byte) : Except Fault Enc :=
  match memWrite .items Config.itemsSize e.tp.items a v with
  | .ok m => .ok { e with tp := { e.tp with items := m } }
  | .error f => .error f

/-- `Emit(v)` of ENC: append to `ENC.OUT`, add 1 to `ENC.TOTAL`. -/
def Enc.emit (e : Enc) (v : Byte) : Enc := { e with out := e.out ++ [v], total := e.total + 1 }

/-- `ENC.DONE`: `CSIZE <- TOTAL`, `STATE <- Done` (42_padding_controller.md R125, R126). -/
def Enc.stop (e : Enc) : Enc := { e with csize := e.total, state := .done }

/-! ## DEC's primitives -/

/-- `SrcNext()`: the byte at `IPOS` and the engine with `IPOS` moved past it, or nothing at `EOF` (R19). -/
def Dec.srcNext (d : Dec) : Option (Byte × Dec) :=
  match d.src[d.ipos]? with
  | some b => some (b, { d with ipos := d.ipos + 1 })
  | none => none

/-- `MemRead(WIN, a, 1)` (R21, R43). -/
def Dec.readWin (d : Dec) (a : Nat) : Except Fault Byte := memRead .win Config.windowSize d.win a

/-- `MemWrite(WIN, a, 1, v)` (R21, R43). -/
def Dec.writeWin (d : Dec) (a : Nat) (v : Byte) : Except Fault Dec :=
  match memWrite .win Config.windowSize d.win a v with
  | .ok m => .ok { d with win := m }
  | .error f => .error f

/-- `Emit(v)` of DEC: append to `DEC.OUT`, add 1 to `DEC.OCNT`. -/
def Dec.emit (d : Dec) (v : Byte) : Dec := { d with out := d.out ++ [v], ocnt := d.ocnt + 1 }

/-- `DEC.DONE`, `stop(Done)` (43_token_parser.md R142). -/
def Dec.stop (d : Dec) : Dec := { d with state := .done }

/-- The test of R143: "the `Emit` that makes `OCNT = n`". -/
def Dec.atLimit (lim : Option Nat) (d : Dec) : Bool := lim == some d.ocnt

/-- What follows the OUT_LIMIT test after an `Emit`: `Done` at the limit, else go on as the engine stands (R143). -/
def Dec.limitTest (lim : Option Nat) (d : Dec) : Dec := if d.atLimit lim then d.stop else d

/-! ## From an engine to the machine -/

/-- A step of ENC leaves DEC and the configuration alone (R2). -/
def State.liftEnc (s : State) (r : Except Fault Enc) : Host.Outcome State Fault Refusal :=
  match r with
  | .ok e => .next { s with enc := e }
  | .error f => .fault f

/-- A step of DEC leaves ENC and the configuration alone (R2). -/
def State.liftDec (s : State) (r : Except Fault Dec) : Host.Outcome State Fault Refusal :=
  match r with
  | .ok d => .next { s with dec := d }
  | .error f => .fault f

/-- ENC is in the middle of a run. -/
def Enc.running (e : Enc) : Bool := e.state != .idle && e.state != .done

/-- DEC is in the middle of a run. -/
def Dec.running (d : Dec) : Bool := d.state != .idle && d.state != .done

/-- Completion of ENC, as the host sees it (R27). -/
def State.encDone (s : State) : Bool := s.enc.state == .done

/-- Completion of DEC, as the host sees it (R27). -/
def State.decDone (s : State) : Bool := s.dec.state == .done

end Sys2Proof.Machine
end

