-- ==== Sys2Proof/Machine/Operands.lean ====
section
/-! DEFINITION. Sys2Proof/Machine/Operands.lean: the operand forms, which are indices of the window: by distance back from
the cursor, and advanced by one or by a length, all modulo 1023 (20_memory.md R43, R56, R231). -/

namespace Sys2Proof.Machine

/-- `slot(d) = if CUR >= d then CUR - d else CUR + 1023 - d` (R43, R158). -/
def windowSlot (cur d : Nat) : Nat := if d ≤ cur then cur - d else cur + 1023 - d

/-- `(i + 1) mod 1023`: "1022 goes to 0" (R156, R159, R190). -/
def windowNext (i : Nat) : Nat := if i = 1022 then 0 else i + 1

/-- `(CUR + LEN) mod 1023`, "by one conditional `- 1023`" (R160, R190). -/
def windowAdvance (cur len : Nat) : Nat := if cur + len ≥ 1023 then cur + len - 1023 else cur + len

/-- The index of byte `k` of a run that starts at `i`: "(i + j) mod 1023" (R43, R51). -/
def windowAt (i k : Nat) : Nat := (i + k) % 1023

end Sys2Proof.Machine
end

