-- ==== Sys2Proof/Machine/Flags.lean ====
section
/-! DEFINITION. Sys2Proof/Machine/Flags.lean: the flag byte on both sides: TP.FLAGS, filled from bit 7 downward, and the
shift register DEC.FLG, consumed most significant bit first (20_memory.md R46, 10_state.md R15, R20). -/

namespace Sys2Proof.Machine

/-- `FLAGS | (0x80 >> NITEMS)`: sets bit `7 - NITEMS` (41_token_packer.md R102, R103). -/
def flagsMark (flags : Byte) (nitems : Nat) : Byte := flags ||| ((0x80#8) >>> nitems)

/-- `FLG[7]`, the flag of the next item (43_token_parser.md R138). -/
def flgBit (flg : Byte) : Bool := flg.getLsbD 7

/-- `(FLG << 1) & 0xFF` (R138): a 0 enters at bit 0. -/
def flgShift (flg : Byte) : Byte := flg <<< 1

end Sys2Proof.Machine
end

