-- ==== Sys2Proof/Machine/Window.lean ====
section
/-! DEFINITION. Sys2Proof/Machine/Window.lean: the WindowReconstructor's operations (44_window_reconstructor.md R155 to
R165), over DEC and the run's OUT_LIMIT `lim`. -/

namespace Sys2Proof.Machine

/-- `WR.LIT(b)` (R156) and the OUT_LIMIT test; the parser goes back to `Dispatch` (43_token_parser.md R139). -/
def Dec.wrLit (lim : Option Nat) (b : Byte) (d : Dec) : Except Fault Dec :=
  match (d.emit b).writeWin d.cur b with
  | .ok d1 => .ok (Dec.limitTest lim { d1 with cur := windowNext d1.cur, state := .dispatch })
  | .error f => .error f

/-- `WR.NOP` (R157): "emit nothing, advance nothing"; the parser goes back to `Dispatch` (R141). -/
def Dec.wrNop (d : Dec) : Dec := { d with state := .dispatch }

/-- `WR.COPY_START` on the latched `OFF` and `LEN` (R158); the parser goes to `Copy` (R141). -/
def Dec.copyStart (d : Dec) : Dec :=
  { d with srcp := windowSlot d.cur d.off.toNat, dstp := d.cur, rem := d.len.toNat, state := .copy }

/-- `WR.COPY_BYTE` (R159): read first, emit, then write; both indices move on. The OUT_LIMIT test is in `copyStep`. -/
def Dec.copyByte (d : Dec) : Except Fault Dec :=
  match d.readWin d.srcp with
  | .error f => .error f
  | .ok b =>
    match (({ d with stg := b } : Dec).emit b).writeWin d.dstp b with
    | .error f => .error f
    | .ok d1 =>
      .ok { d1 with srcp := windowNext d1.srcp, dstp := windowNext d1.dstp, rem := d1.rem - 1 }

/-- `WR.COPY_END` (R160). -/
def Dec.copyEnd (d : Dec) : Dec := { d with cur := windowAdvance d.cur d.len.toNat, state := .dispatch }

/-- One row of `Copy` in the transition table (43_token_parser.md R145): a byte, the end of the copy after the last one,
and the OUT_LIMIT test, which stops a copy in its middle (R143). There is no row for `REM = 0` (log 12). -/
def Dec.copyStep (lim : Option Nat) (d : Dec) : Except Fault Dec :=
  if d.rem = 0 then .error .copyWithoutBytes
  else
    match d.copyByte with
    | .error f => .error f
    | .ok d1 => .ok (Dec.limitTest lim (if d.rem = 1 then d1.copyEnd else d1))

/-- `WR.COPY_BYTE` over and over until the engine leaves `Copy`; the first argument bounds the number of bytes and is
`REM` where a copy starts or goes on. -/
def Dec.copyRun (lim : Option Nat) : Nat → Dec → Except Fault Dec
  | 0, _ => .error .copyWithoutBytes
  | n + 1, d =>
    match d.copyStep lim with
    | .error f => .error f
    | .ok d1 => if d1.state = .copy then Dec.copyRun lim n d1 else .ok d1

/-- Unpacking at the end of `READ_TOKEN2`: the token's fields go to the latches (43_token_parser.md R140, R23). -/
def Dec.latch (off : BitVec 10) (len : BitVec 6) (d : Dec) : Dec := { d with off := off, len := len }

/-- A whole match copy: unpack, `WR.COPY_START`, `WR.COPY_BYTE` `LEN` times, `WR.COPY_END` (R158 to R160). -/
def Dec.copyItem (lim : Option Nat) (off : BitVec 10) (len : BitVec 6) (d : Dec) : Except Fault Dec :=
  Dec.copyRun lim len.toNat (d.latch off len).copyStart

end Sys2Proof.Machine
end

