-- ==== Sys2Proof/Syntax.lean ====
section
/-! DEFINITION. Sys2Proof/Syntax.lean: the items of the compressed stream, one constructor per row of
spec/opcode_table.json (30_encoding.md R68, R76). -/

namespace Sys2Proof

/-- What DEC interprets. An operand has exactly the bits its field has in the wire format (R61 to R63). -/
inductive Instr where
  /-- `FLAGS f`, format `G`: a group's flag byte; bit `7 - i` is the flag of item `i` (R61). -/
  | flags (f : Byte)
  /-- `LIT b`, format `L`: one literal byte (R62). -/
  | lit (b : Byte)
  /-- `NOP`, format `M` with length field 0; the offset field is there and is ignored (R68, R71). -/
  | nop (off : BitVec 10)
  /-- `COPY off,len`, format `M` with both fields non-zero (R68). -/
  | copy (off : BitVec 10) (len : BitVec 6)
  /-- `COPY 0,len`, format `M` with offset field 0 and a non-zero length field (R68, R71). -/
  | copy0 (len : BitVec 6)
deriving DecidableEq, Repr

/-- How the parser takes the next byte or bytes of the stream: as a flag byte, by position, or as an item whose flag bit
is given (R66, R68: "a flag byte purely by position"; an item's length is decided by its flag bit alone). -/
inductive Slot where
  | header
  | item (flag : Bool)
deriving DecidableEq, Repr

/-- The slot an instruction stands in (R68). -/
def Instr.slot : Instr → Slot
  | .flags _ => .header
  | .lit _ => .item false
  | .nop _ => .item true
  | .copy _ _ => .item true
  | .copy0 _ => .item true

/-- Bytes of the stream an instruction takes up: 1 for a flag byte, 1 for a literal, 2 for a token (R66, R144). -/
def Instr.size : Instr → Nat
  | .flags _ => 1
  | .lit _ => 1
  | .nop _ => Config.tokenBytes
  | .copy _ _ => Config.tokenBytes
  | .copy0 _ => Config.tokenBytes

/-- The mnemonic of an instruction's row in spec/opcode_table.json. -/
def Instr.mnemonic : Instr → String
  | .flags _ => "FLAGS"
  | .lit _ => "LIT"
  | .nop _ => "NOP"
  | .copy _ _ => "COPY"
  | .copy0 _ => "COPY0"

end Sys2Proof
end

