-- ==== Sys2Proof/Machine/Header.lean ====
section
/-! DEFINITION. Sys2Proof/Machine/Header.lean: the meaning of the flag byte, format `G` (43_token_parser.md R137). -/

namespace Sys2Proof.Machine

/-- The parser loads the flag shift register: `FLG <- b; FCNT <- 8; STATE <- Dispatch` (R137). -/
def Dec.loadFlags (f : Byte) (d : Dec) : Dec := { d with flg := f, fcnt := Config.group, state := .dispatch }

/-- `FLAGS f`: `TPR.FETCH_FLAGS` once its byte is there (R137). -/
def execFlags (f : Byte) (s : State) : Host.Outcome State Fault Refusal :=
  s.liftDec (.ok (s.dec.loadFlags f))

end Sys2Proof.Machine
end

