-- ==== Sys2Proof/Machine/Literal.lean ====
section
/-! DEFINITION. Sys2Proof/Machine/Literal.lean: the meaning of the literal, format `L` (44_window_reconstructor.md R156). -/

namespace Sys2Proof.Machine

/-- `LIT b`: `WR.LIT(b)` and the OUT_LIMIT test (R139, R156, R143). -/
def execLit (b : Byte) (s : State) : Host.Outcome State Fault Refusal :=
  s.liftDec (s.dec.wrLit s.outLimit b)

end Sys2Proof.Machine
end

