-- ==== Sys2Proof/Machine/Token.lean ====
section
/-! DEFINITION. Sys2Proof/Machine/Token.lean: the meanings of the match tokens, format `M` (43_token_parser.md R140, R141;
44_window_reconstructor.md R157 to R162). -/

namespace Sys2Proof.Machine

/-- `NOP` with any offset field: the token is unpacked and nothing else happens (R157). -/
def execNop (off : BitVec 10) (s : State) : Host.Outcome State Fault Refusal :=
  s.liftDec (.ok (s.dec.latch off 0#6).wrNop)

/-- `COPY off,len` (R158 to R160). -/
def execCopy (off : BitVec 10) (len : BitVec 6) (s : State) : Host.Outcome State Fault Refusal :=
  s.liftDec (s.dec.copyItem s.outLimit off len)

/-- `COPY 0,len`: "the copy formula is applied unchanged: source index = cursor, i.e. distance 1023" (R162, D11). -/
def execCopy0 (len : BitVec 6) (s : State) : Host.Outcome State Fault Refusal :=
  s.liftDec (s.dec.copyItem s.outLimit 0#10 len)

end Sys2Proof.Machine
end

