-- ==== Sys2Proof/Machine/Dispatch.lean ====
section
/-! DEFINITION. Sys2Proof/Machine/Dispatch.lean: one arm per constructor of Instr (30_encoding.md R68). -/

namespace Sys2Proof.Machine

def exec (i : Instr) (s : State) : Host.Outcome State Fault Refusal :=
  match i with
  | .flags f => Sys2Proof.Machine.execFlags f s
  | .lit b => Sys2Proof.Machine.execLit b s
  | .nop off => Sys2Proof.Machine.execNop off s
  | .copy off len => Sys2Proof.Machine.execCopy off len s
  | .copy0 len => Sys2Proof.Machine.execCopy0 len s

end Sys2Proof.Machine
end

