-- ==== Sys2Proof/WellFormed.lean ====
section
/-! DEFINITION. Sys2Proof/WellFormed.lean: the constraint column of spec/opcode_table.json (30_encoding.md R68, R76). -/

namespace Sys2Proof

/-- An instruction some bytes of a stream stand for: `COPY` has `l != 0 and o != 0`, `COPY0` has `l != 0`; the other rows
have no constraint (R68). The field widths are in the types. -/
def Instr.wf : Instr → Bool
  | .flags _ => true
  | .lit _ => true
  | .nop _ => true
  | .copy off len => off != 0 && len != 0
  | .copy0 len => len != 0

end Sys2Proof
end

