-- ==== Sys2Proof/Decode.lean ====
section
/-! DEFINITION. Sys2Proof/Decode.lean: the decoder of the compressed stream, the encoder, and the opcode table as data
(30_encoding.md R60 to R71, R76). -/

namespace Sys2Proof

/-! ## The token's fields -/

/-- Byte1 of a match token: "`byte1 = ((length << 2) | (offset >> 8)) & 0xFF`" (R64). -/
def packByte1 (offset length : Nat) : Byte := BitVec.ofNat 8 ((length <<< 2 ||| offset >>> 8) &&& 0xFF)

/-- Byte2 of a match token: "`byte2 = offset & 0xFF`" (R64). -/
def packByte2 (offset : Nat) : Byte := BitVec.ofNat 8 (offset &&& 0xFF)

/-- "`offset = byte2 + ((byte1 & 0x03) << 8)`" (R65). -/
def unpackOffset (b1 b2 : Byte) : BitVec 10 := BitVec.ofNat 10 (b2.toNat + (b1.toNat &&& 0x03) <<< 8)

/-- "`length = byte1 >> 2`" (R65). -/
def unpackLength (b1 : Byte) : BitVec 6 := BitVec.ofNat 6 (b1.toNat >>> 2)

/-! ## Decoding -/

/-- Why a sequence of bytes holds no instruction in a slot. The bytes that are there are never at fault (R69); the only
reason is that the stream ends (R142). -/
inductive DecodeError where
  /-- no byte where a flag byte is due -/
  | noFlagByte
  /-- no byte where a literal is due -/
  | noLiteralByte
  /-- no byte where a token's byte1 is due -/
  | noTokenByte1
  /-- byte1 is there and byte2 is not: a truncated token -/
  | noTokenByte2
deriving DecidableEq, Repr

/-- The operation a token stands for: `NOP` is tested first, whatever the offset field; then `COPY0` and `COPY` are told
apart by the offset field (R68, R71). -/
def decodeToken (b1 b2 : Byte) : Instr :=
  if unpackLength b1 = 0 then .nop (unpackOffset b1 b2)
  else if unpackOffset b1 b2 = 0 then .copy0 (unpackLength b1)
  else .copy (unpackOffset b1 b2) (unpackLength b1)

/-- The instruction at the front of `bs` in a slot, and the bytes after it (R66, R68). Total on any bytes. -/
def decode (sl : Slot) (bs : Bytes) : Except DecodeError (Instr × Bytes) :=
  match sl, bs with
  | .header, [] => .error .noFlagByte
  | .header, f :: rest => .ok (.flags f, rest)
  | .item false, [] => .error .noLiteralByte
  | .item false, b :: rest => .ok (.lit b, rest)
  | .item true, [] => .error .noTokenByte1
  | .item true, [_] => .error .noTokenByte2
  | .item true, b1 :: b2 :: rest => .ok (decodeToken b1 b2, rest)

/-! ## Encoding -/

/-- The bytes of an instruction, in stream order (R61 to R64). Its flag bit stands in the group's flag byte: `Instr.slot`. -/
def encode : Instr → Bytes
  | .flags f => [f]
  | .lit b => [b]
  | .nop off => [packByte1 off.toNat 0, packByte2 off.toNat]
  | .copy off len => [packByte1 off.toNat len.toNat, packByte2 off.toNat]
  | .copy0 len => [packByte1 0 len.toNat, packByte2 0]

/-! ## The opcode table as data -/

/-- A row of spec/opcode_table.json: its width in bits, `mask` and `match` over the row's bit string read as one number
with the flag bit on top, its priority, and its constraint on the length and offset fields (R76). -/
structure OpcodeRow where
  mnemonic : String
  width : Nat
  mask : Nat
  pattern : Nat
  priority : Nat
  lenZero : Option Bool
  offZero : Option Bool
deriving DecidableEq, Repr

/-- The rows, in the table's order. -/
def opcodeTable : List OpcodeRow :=
  [ ⟨"FLAGS", 8, 0x00, 0x00, 0, none, none⟩,
    ⟨"LIT", 9, 0x100, 0x000, 1, none, none⟩,
    ⟨"NOP", 17, 0x1FC00, 0x10000, 1, some true, none⟩,
    ⟨"COPY", 17, 0x10000, 0x10000, 2, some false, some false⟩,
    ⟨"COPY0", 17, 0x103FF, 0x10000, 2, some false, some true⟩ ]

/-- "A candidate `x` selects the row when `x & mask = match` and the row's `constraint` holds" (R76); `x` has the row's
width, with the length field in bits 15..10 and the offset field in bits 9..0. -/
def OpcodeRow.selects (r : OpcodeRow) (x : Nat) : Bool :=
  x &&& r.mask == r.pattern
    && (r.lenZero.all fun z => ((x >>> 10) % 64 == 0) == z)
    && (r.offZero.all fun z => (x % 1024 == 0) == z)

/-- The instruction's bit string as the table numbers it: the flag bit (formats `L` and `M`), then the bytes in stream
order, most significant bit first (R76). -/
def tableWord (i : Instr) : Nat :=
  let bytes := (encode i).foldl (fun acc b => acc * 256 + b.toNat) 0
  match i.slot with
  | .header => bytes
  | .item flag => (if flag then 2 ^ (8 * i.size) else 0) + bytes

/-! ## The host's words -/

/-- The bits the opcode table gives a row, in whole bytes (30_encoding.md R76): the flag bit is one more than the item's
bytes. -/
def Instr.tableBits (i : Instr) : Nat :=
  match i.slot with
  | .header => 8
  | .item _ => 8 * i.size + 8

/-- How a table word of `nbits` bits lies in the machine: which slot it is for, and its bytes in stream order. A row of
format `G` has 8 bits, `L` 9 and `M` 17; in whole bytes these are 8, 16 and 24. The flag bit is the top bit of the row's
bit string and is no byte of the stream: it goes to the flag byte (R76). DEDUCED, log 16. -/
def tableLayout (nbits w : Nat) : Option (Slot × Bytes) :=
  if nbits = 8 then (if w < 2 ^ 8 then some (.header, [BitVec.ofNat 8 w]) else none)
  else if nbits = 9 ∨ nbits = 16 then
    (if w < 2 ^ 9 then some (.item (w.testBit 8), [BitVec.ofNat 8 w]) else none)
  else if nbits = 17 ∨ nbits = 24 then
    (if w < 2 ^ 17 then some (.item (w.testBit 16), [BitVec.ofNat 8 (w >>> 8), BitVec.ofNat 8 w]) else none)
  else none

/-- The instruction the decoder reads from a table word, if it takes up all of the word's bytes. -/
def decodeTableWord (nbits w : Nat) : Option Instr :=
  match tableLayout nbits w with
  | none => none
  | some (sl, bs) =>
    match decode sl bs with
    | .ok (i, []) => some i
    | .ok (_, _ :: _) => none
    | .error _ => none

end Sys2Proof
end

