-- ==== Sys2Proof/Machine/MatchFinder.lean ====
section
/-! DEFINITION. Sys2Proof/Machine/MatchFinder.lean: the MatchFinder as the scanner of 40_match_finder.md R90, on its own
registers. `cap` is `LOOKAHEAD_CAP` (R6). The quick reject of R86 changes no result and is left out, as R86 says. -/

namespace Sys2Proof.Machine

/-- `MF.INIT` (R81, R90). -/
def Enc.mfInit (e : Enc) : Enc :=
  { e with
    mf := { e.mf with
      remain := e.len - e.p, limit := min e.p Config.windowSize, besto := 0, bestl := 0, ofs := Config.minOffset } }

/-- The comparison loop of `MF.TRY` (R85): `K` counts the equal bytes up to `MAXCHK`. The argument bounds the number of
rounds and is `MAXCHK` where the loop starts. -/
def Enc.mfCompare : Nat → Enc → Except Fault Enc
  | 0, e => .ok e
  | n + 1, e =>
    if e.mf.k < e.mf.maxchk then
      match e.readIn (e.p - e.mf.ofs + e.mf.k) with
      | .error f => .error f
      | .ok a =>
        match e.readIn (e.p + e.mf.k) with
        | .error f => .error f
        | .ok b =>
          if a = b then Enc.mfCompare n { e with mf := { e.mf with k := e.mf.k + 1 } } else .ok e
    else .ok e

/-- `MF.TRY` (R84, R85, R90): the run at offset `OFS`. -/
def Enc.mfTry (cap : Nat) (e : Enc) : Except Fault Enc :=
  let maxchk := min (min e.mf.remain e.mf.ofs) cap
  Enc.mfCompare maxchk { e with mf := { e.mf with maxchk := maxchk, k := 0 } }

/-- `MF.CLAMP_EXIT` (R88). -/
def Enc.mfClampExit (e : Enc) : Enc :=
  { e with mf := { e.mf with bestl := Config.maxMatch, besto := e.mf.ofs } }

/-- `MF.UPDATE` (R87): "only on **strict** improvement". -/
def Enc.mfUpdate (e : Enc) : Enc :=
  if e.mf.k > e.mf.bestl then { e with mf := { e.mf with bestl := e.mf.k, besto := e.mf.ofs } } else e

/-- `MF.NEXT`, the increment (R90). -/
def Enc.mfNext (e : Enc) : Enc := { e with mf := { e.mf with ofs := e.mf.ofs + 1 } }

/-- The scan from the current `OFS` on (R83, R90). The argument bounds the number of offsets tried. -/
def Enc.mfScan (cap : Nat) : Nat → Enc → Except Fault Enc
  | 0, e => .ok e
  | n + 1, e =>
    match e.mfTry cap with
    | .error f => .error f
    | .ok e1 =>
      if e1.mf.k > Config.maxMatch then .ok e1.mfClampExit
      else
        let e2 := e1.mfUpdate.mfNext
        if e2.mf.ofs ≤ e2.mf.limit then Enc.mfScan cap n e2 else .ok e2

/-- `MF.SEARCH` up to `MF.RESULT` (R80, R82, R90): ENC with the registers as the scan leaves them. -/
def Enc.mfSearch (cap : Nat) (e : Enc) : Except Fault Enc :=
  let e0 := e.mfInit
  if e0.mf.limit < Config.minOffset then .ok e0 else Enc.mfScan cap e0.mf.limit e0

/-- `MF.RESULT` (R89): `(offset, length)`, or `(0, 0)` for "no match". -/
def Mf.result (m : Mf) : Nat × Nat := if m.bestl ≥ Config.minMatch then (m.besto, m.bestl) else (0, 0)

end Sys2Proof.Machine
end

