-- ==== Sys2Proof/Machine/TokenPacker.lean ====
section
/-! DEFINITION. Sys2Proof/Machine/TokenPacker.lean: the TokenPacker and ENC's main loop (41_token_packer.md R100 to R109). -/

namespace Sys2Proof.Machine

/-- `ENC.START` (R100, R221): all that a start writes (R28). -/
def Enc.startRun (e : Enc) : Enc :=
  { e with
    p := 0, tp := { e.tp with flags := 0x00#8, nitems := 0, nbytes := 0 }, total := 0, out := [], state := .run }

/-- `TP.PUT_LIT` (R101). -/
def Enc.putLit (e : Enc) : Except Fault Enc :=
  match e.readIn e.p with
  | .error f => .error f
  | .ok b =>
    match e.writeItem e.tp.nbytes b with
    | .error f => .error f
    | .ok e1 =>
      .ok { e1 with tp := { e1.tp with nbytes := e1.tp.nbytes + 1, nitems := e1.tp.nitems + 1 }, p := e1.p + 1 }

/-- A token into the open group: two item bytes and a flag bit (R102, and 42_padding_controller.md R118 for a no-op). -/
def Enc.putToken (o l : Nat) (e : Enc) : Except Fault Enc :=
  match e.writeItem e.tp.nbytes (packByte1 o l) with
  | .error f => .error f
  | .ok e1 =>
    match e1.writeItem (e1.tp.nbytes + 1) (packByte2 o) with
    | .error f => .error f
    | .ok e2 =>
      .ok { e2 with
        tp := { e2.tp with
          nbytes := e2.tp.nbytes + 2, flags := flagsMark e2.tp.flags e2.tp.nitems, nitems := e2.tp.nitems + 1 } }

/-- `TP.PUT_MATCH(o, l)` (R102): the cursor advances "by the match's length" (R106). -/
def Enc.putMatch (o l : Nat) (e : Enc) : Except Fault Enc :=
  match e.putToken o l with
  | .error f => .error f
  | .ok e1 => .ok { e1 with p := e1.p + l }

/-- `for i in a .. a + n - 1: Emit(MemRead(ITEMS, i, 1))` (R104). -/
def Enc.emitItems : Nat → Nat → Enc → Except Fault Enc
  | _, 0, e => .ok e
  | a, n + 1, e =>
    match e.readItem a with
    | .error f => .error f
    | .ok b => Enc.emitItems (a + 1) n (e.emit b)

/-- `TP.FLUSH` (R104): "write the flag byte, then the item bytes, in that order". -/
def Enc.flush (e : Enc) : Except Fault Enc :=
  match Enc.emitItems 0 e.tp.nbytes (e.emit e.tp.flags) with
  | .error f => .error f
  | .ok e1 => .ok { e1 with tp := { e1.tp with flags := 0x00#8, nitems := 0, nbytes := 0 } }

/-- `if NITEMS = 8: TP.FLUSH` (R100, R104). -/
def Enc.flushFull (e : Enc) : Except Fault Enc := if e.tp.nitems = Config.group then e.flush else .ok e

/-- The put that the search's result asks for (R100). -/
def Enc.put (r : Nat × Nat) (e : Enc) : Except Fault Enc := if r = (0, 0) then e.putLit else e.putMatch r.1 r.2

/-- `ENC.STEP` in `STATE = Run` (R100): at the end of the input on to the tail (R115), else one search, one item, and the
flush of a full group. -/
def Enc.runStep (cap : Nat) (mode : PadMode) (e : Enc) : Except Fault Enc :=
  if e.p = e.len then .ok { e with state := if mode = .exactPad then .nopFill else .finalFlush }
  else
    match e.mfSearch cap with
    | .error f => .error f
    | .ok e1 =>
      match e1.put e1.mf.result with
      | .error f => .error f
      | .ok e2 => e2.flushFull

end Sys2Proof.Machine
end

