-- ==== Sys2Proof/Machine/Padding.lean ====
section
/-! DEFINITION. Sys2Proof/Machine/Padding.lean: the padding controller and the end of an ENC run
(42_padding_controller.md R115 to R127; `TP.FINAL_FLUSH` of 41_token_packer.md R105). -/

namespace Sys2Proof.Machine

/-- The loop of `PC.NOPFILL` (R118): canonical no-op tokens "until the group fills or the target alignment is reached".
The argument bounds the number of rounds. -/
def Enc.nopFillLoop : Nat → Enc → Except Fault Enc
  | 0, e => .ok e
  | n + 1, e =>
    if e.tp.nitems < Config.group ∧ (e.total + 1 + e.tp.nbytes) % Config.align ≠ 0 then
      match e.putToken 0 0 with
      | .error f => .error f
      | .ok e1 => Enc.nopFillLoop n e1
    else .ok e

/-- `PC.NOPFILL` (R118): skipped when the open group is empty (R119). -/
def Enc.nopFill (e : Enc) : Except Fault Enc :=
  match (if e.tp.nitems > 0 then Enc.nopFillLoop Config.group e else .ok e) with
  | .error f => .error f
  | .ok e1 => .ok { e1 with state := .finalFlush }

/-- Where the final flush leads, by `PAD_MODE` (R105, R115); in `noPad` nothing follows and ENC is done (R117, R126). -/
def Enc.afterFlush (mode : PadMode) (e : Enc) : Enc :=
  match mode with
  | .default => { e with state := .zeroPad }
  | .noPad => e.stop
  | .exactPad => { e with state := .templatePad }

/-- `TP.FINAL_FLUSH` (R105): "if `NITEMS = 0` nothing is emitted: no lone flag byte". -/
def Enc.finalFlush (mode : PadMode) (e : Enc) : Except Fault Enc :=
  match (if e.tp.nitems > 0 then e.flush else .ok e) with
  | .error f => .error f
  | .ok e1 => .ok (e1.afterFlush mode)

/-- `while TOTAL mod 16 != 0: Emit(0x00)` (R116). The argument bounds the number of rounds. -/
def Enc.zeroPadLoop : Nat → Enc → Enc
  | 0, e => e
  | n + 1, e => if e.total % Config.align ≠ 0 then Enc.zeroPadLoop n (e.emit 0x00#8) else e

/-- `PC.ZERO_PAD`, then `ENC.DONE` (R116, R126). -/
def Enc.zeroPad (e : Enc) : Enc := (Enc.zeroPadLoop Config.align e).stop

/-- `while PADCNT > 0: Emit(TEMPLATE[TIDX]); ...` (R121). The argument is `PADCNT`. -/
def Enc.templateLoop : Nat → Enc → Enc
  | 0, e => e
  | n + 1, e =>
    let e1 := e.emit (Config.template.getD e.pc.tidx 0x00#8)
    Enc.templateLoop n { e1 with pc := { e1.pc with tidx := (e1.pc.tidx + 1) % 17, padcnt := e1.pc.padcnt - 1 } }

/-- `PC.TEMPLATE_PAD`, then `ENC.DONE` (R121, R126). The table's index is the number of bytes short of the next
boundary, 1..16. -/
def Enc.templatePad (e : Enc) : Enc :=
  let short := Config.align - e.total % Config.align
  let padcnt := Config.padTable.getD short 0
  (Enc.templateLoop padcnt { e with pc := { short := short, padcnt := padcnt, tidx := 0 } }).stop

/-- One step of ENC (R100, R115): "`Run -> [NopFill ->] FinalFlush -> [ZeroPad | TemplatePad ->] Done`". An engine that
is not running stays as it is (R126, R220). -/
def Enc.step (cap : Nat) (mode : PadMode) (e : Enc) : Except Fault Enc :=
  match e.state with
  | .idle => .ok e
  | .run => e.runStep cap mode
  | .nopFill => e.nopFill
  | .finalFlush => e.finalFlush mode
  | .zeroPad => .ok e.zeroPad
  | .templatePad => .ok e.templatePad
  | .done => .ok e

end Sys2Proof.Machine
end

