-- ==== Sys2Proof/Machine/Parser.lean ====
section
/-! DEFINITION. Sys2Proof/Machine/Parser.lean: the TokenParser: fetching and shifting flags, fetching an item's bytes
(43_token_parser.md R135 to R146), and one row of its transition table at a time (R145). -/

namespace Sys2Proof.Machine

/-- `DEC.START` (R136): every window slot to 0x11 (a memory that lists nothing), and the registers of R222. What is
written here is all that a start writes (R28). -/
def Dec.startRun (lim : Option Nat) (d : Dec) : Dec :=
  { d with
    win := [], cur := 0, ipos := 0, fcnt := 0, ocnt := 0, out := []
    state := if lim = some 0 then .done else .readFlagByte }

/-- `TPR.SHIFT` (R138): at the end of a group back to `ReadFlagByte`, else one flag bit is shifted out and decides what
is read next. -/
def Dec.shift (d : Dec) : Dec :=
  if d.fcnt = 0 then { d with state := .readFlagByte }
  else
    { d with
      flg := flgShift d.flg, fcnt := d.fcnt - 1
      state := if flgBit d.flg then .readToken1 else .readLiteral }

/-! ## A whole item at a time -/

/-- What one step of the parser finds. -/
inductive Fetched where
  /-- an instruction, and DEC after its bytes were read -/
  | item (i : Instr) (d : Dec)
  /-- no instruction in this step: a group's end, the end of the stream, or an engine that is not running -/
  | moved (d : Dec)
  /-- a copy is in progress -/
  | copying (d : Dec)
deriving DecidableEq, Repr

/-- `ReadFlagByte` (R137): end of input "terminates decoding (not an error)". -/
def Dec.fetchHeader (d : Dec) : Fetched :=
  match d.srcNext with
  | none => .moved d.stop
  | some (f, d1) => .item (.flags f) d1

/-- `ReadLiteral` (R139). -/
def Dec.fetchLiteral (d : Dec) : Fetched :=
  match d.srcNext with
  | none => .moved d.stop
  | some (b, d1) => .item (.lit b) d1

/-- `ReadToken2` (R140): byte1 is latched in `B1`. A stream that ends here drops the half token. -/
def Dec.fetchToken2 (d : Dec) : Fetched :=
  match d.srcNext with
  | none => .moved d.stop
  | some (b, d1) => .item (decodeToken d1.b1 b) d1

/-- `ReadToken1` and on (R140). -/
def Dec.fetchToken1 (d : Dec) : Fetched :=
  match d.srcNext with
  | none => .moved d.stop
  | some (b, d1) => Dec.fetchToken2 { d1 with b1 := b, state := .readToken2 }

/-- From `Dispatch`: the flag bit is consumed before the item's bytes are fetched (R138). -/
def Dec.fetchItem (d : Dec) : Fetched :=
  if d.fcnt = 0 then .moved d.shift
  else if flgBit d.flg then d.shift.fetchToken1 else d.shift.fetchLiteral

/-- One step of the parser, from wherever DEC stands (R26, R145). -/
def Dec.fetch (d : Dec) : Fetched :=
  match d.state with
  | .idle => .moved d
  | .readFlagByte => d.fetchHeader
  | .dispatch => d.fetchItem
  | .readLiteral => d.fetchLiteral
  | .readToken1 => d.fetchToken1
  | .readToken2 => d.fetchToken2
  | .copy => .copying d
  | .done => .moved d

/-! ## One row of the transition table at a time -/

/-- Token dispatch (R141): "The test is on `LEN` alone; `OFF` is not looked at." -/
def Dec.tokenDispatch (d : Dec) : Dec := if d.len = 0 then d.wrNop else d.copyStart

/-- One row of the transition table of `DEC.STATE` (R145), which moves at most one byte of the stream. The machine's own
step runs a whole item (R145: "a model may take bigger steps", D17; log 7). -/
def Dec.micro (lim : Option Nat) (d : Dec) : Except Fault Dec :=
  match d.state with
  | .idle => .ok d
  | .readFlagByte =>
    match d.srcNext with
    | none => .ok d.stop
    | some (f, d1) => .ok (d1.loadFlags f)
  | .dispatch => .ok d.shift
  | .readLiteral =>
    match d.srcNext with
    | none => .ok d.stop
    | some (b, d1) => d1.wrLit lim b
  | .readToken1 =>
    match d.srcNext with
    | none => .ok d.stop
    | some (b, d1) => .ok { d1 with b1 := b, state := .readToken2 }
  | .readToken2 =>
    match d.srcNext with
    | none => .ok d.stop
    | some (b, d1) => .ok (d1.latch (unpackOffset d1.b1 b) (unpackLength d1.b1)).tokenDispatch
  | .copy => d.copyStep lim
  | .done => .ok d

/-- `n` rows, one after another. -/
def Dec.microRun (lim : Option Nat) : Nat → Dec → Except Fault Dec
  | 0, d => .ok d
  | n + 1, d =>
    match d.micro lim with
    | .error f => .error f
    | .ok d1 => Dec.microRun lim n d1

end Sys2Proof.Machine
end

