-- ==== Sys2Proof/Machine/HostPort.lean ====
section
/-! DEFINITION. Sys2Proof/Machine/HostPort.lean: START and the host's side of a run (60_exceptions.md R209, R210;
70_reset_and_hazards.md R225, R227, R238). The host's writes are no steps of the machine. -/

namespace Sys2Proof.Machine

/-- `START` (R209): "allowed when the selected engine is `Idle` or `Done`". ENC needs `L <= IN_CAP` (R211). -/
def startRun (s : State) : Host.Outcome State Fault Refusal :=
  match s.op with
  | .compress =>
    if s.enc.running then .fault .startWhileRunning
    else if s.enc.len ≤ Config.inCap then .next { s with start := false, enc := s.enc.startRun }
    else .refused .inputTooLarge
  | .decompress =>
    if s.dec.running then .fault .startWhileRunning
    else .next { s with start := false, dec := s.dec.startRun s.outLimit }

/-- The host gives START; the next step performs it (log 8). -/
def hostStart (s : State) : State := { s with start := true }

/-- The host selects `compress` or `decompress`, while neither engine runs (R11, R238). -/
def hostSetOp (op : Op) (s : State) : Host.Outcome State Fault Refusal :=
  if s.enc.running || s.dec.running then .fault .configWhileRunning else .next { s with op := op }

/-- The host selects the padding mode (R11, R225). -/
def hostSetPadMode (mode : PadMode) (s : State) : Host.Outcome State Fault Refusal :=
  if s.enc.running then .fault .configWhileRunning else .next { s with padMode := mode }

/-- The host sets `OUT_LIMIT` (R11, R227). -/
def hostSetOutLimit (lim : Option Nat) (s : State) : Host.Outcome State Fault Refusal :=
  if s.dec.running then .fault .configWhileRunning else .next { s with outLimit := lim }

/-- The host loads all of `IN` and sets `L` (R225; log 17). -/
def hostLoadIn (bs : Bytes) (s : State) : Host.Outcome State Fault Refusal :=
  if s.enc.running then .fault .configWhileRunning
  else .next { s with enc := { s.enc with inMem := Memory.ofBytes Space.inp.unlisted 0 bs, len := bs.length } }

/-- The host supplies `SRC`, whose `EOF` comes after its last byte (R227). -/
def hostSupplySrc (bs : Bytes) (s : State) : Host.Outcome State Fault Refusal :=
  if s.dec.running then .fault .configWhileRunning else .next { s with dec := { s.dec with src := bs } }

/-- What the host may take from ENC: `OUT` and `CSIZE`, in `Done` (R205, R210). -/
def State.encResult (s : State) : Option (Bytes × Nat) := if s.encDone then some (s.enc.out, s.enc.csize) else none

/-- What the host may take from DEC: `OUT`, in `Done` (R205, R210). -/
def State.decResult (s : State) : Option Bytes := if s.decDone then some s.dec.out else none

/-- The input of ENC, written out. -/
def Enc.input (e : Enc) : Bytes := Memory.bytes Space.inp.unlisted e.inMem 0 e.len

end Sys2Proof.Machine
end

