-- ==== Sys2Proof/Machine/Run.lean ====
section
/-! DEFINITION. Sys2Proof/Machine/Run.lean: one step of each engine as the machine takes it, and where an instruction of
the host's lies. `Step` only calls it. -/

namespace Sys2Proof.Machine

/-- One step of DEC: the parser's step, then the meaning of the instruction it found, or the rest of a copy that was in
progress (43_token_parser.md R145; whole items: D17, log 7). -/
def decStep (s : State) : Host.Outcome State Fault Refusal :=
  match s.dec.fetch with
  | .moved d => .next { s with dec := d }
  | .item i d => exec i { s with dec := d }
  | .copying d => s.liftDec (Dec.copyRun s.outLimit d.rem d)

/-- One step of ENC. -/
def encStep (s : State) : Host.Outcome State Fault Refusal :=
  s.liftEnc (s.enc.step Config.lookaheadCap s.padMode)

/-- DEC as it stands just before it fetches the instruction whose slot and bytes are given, the last of its stream: for a
flag byte in `ReadFlagByte`, for an item in `Dispatch` with its flag bit on top of the shift register (R137, R138). -/
def Dec.placed (sl : Slot) (bs : Bytes) (d : Dec) : Dec :=
  match sl with
  | .header => { d with src := bs, ipos := 0, state := .readFlagByte }
  | .item flag =>
    { d with
      src := bs, ipos := 0, state := .dispatch, fcnt := 1
      flg := if flag then d.flg ||| 0x80#8 else d.flg &&& 0x7F#8 }

/-- The machine with a table word placed where the next step fetches: DEC selected, no START pending (log 6). A word that
is no row's leaves DEC with an empty stream. -/
def placeWord (s : State) (nbits w : Nat) : State :=
  match tableLayout nbits w with
  | some (sl, bs) => { s with op := .decompress, start := false, dec := s.dec.placed sl bs }
  | none => { s with op := .decompress, start := false, dec := s.dec.placed .header [] }

end Sys2Proof.Machine
end

