-- ==== Sys2Proof/Machine/Step.lean ====
section
/-! DEFINITION. Sys2Proof/Machine/Step.lean: one step of the machine, and the host's placing of an instruction. -/

namespace Sys2Proof.Machine

/-- One step: a pending START is performed (60_exceptions.md R209); else the engine that `OP` selects takes a step (R2,
R11; "two, ENC and DEC, never concurrent within one invocation", R9). An engine that is not running stays as it is. -/
def step (s : State) : Host.Outcome State Fault Refusal :=
  if s.start then startRun s
  else
    match s.op with
    | .compress => encStep s
    | .decompress => decStep s

/-- `s` with the instruction whose table word is `w` stored where `step` fetches its next instruction. -/
def State.withFetchWord (s : State) (nbits w : Nat) : State := placeWord s nbits w

end Sys2Proof.Machine
end

