-- ==== Sys2Proof/Machine/Reference.lean ====
section
/-! DEFINITION. Sys2Proof/Machine/Reference.lean: the engines as functions from a whole input to a whole output
(45_reference_functions.md R175, R176) and the search in closed form (40_match_finder.md R91). They stand beside the
machine, which does not use them; that they agree with it (R177) is for proofs. -/

namespace Sys2Proof.Machine.Ref

/-- The number of leading equal bytes of the strings that begin at `i` and `j`, counted up to a bound (R85). -/
def runLength (inp : Bytes) : Nat → Nat → Nat → Nat
  | _, _, 0 => 0
  | i, j, n + 1 => if inp.getD i 0 = inp.getD j 0 then 1 + runLength inp (i + 1) (j + 1) n else 0

/-- `run(o)` at position `p`, with `maxCheck = min(remaining, o, LOOKAHEAD_CAP)` (R84, R91). -/
def run (inp : Bytes) (cap p o : Nat) : Nat := runLength inp (p - o) p (min (min (inp.length - p) o) cap)

/-- The candidate offsets `3 .. min(p, 1023)`, in increasing order (R83). -/
def offsets (p : Nat) : List Nat := List.range' 3 (min p 1023 - 2)

/-- The largest run at any candidate offset. -/
def bestRun (inp : Bytes) (cap p : Nat) : Nat := (offsets p).foldl (fun m o => max m (run inp cap p o)) 0

/-- `MF.SEARCH` in closed form (R91): the smallest offset whose run reaches 64, with length 63; else the largest run at
the smallest offset that has it, if it is at least 3; else `(0, 0)`. -/
def bestMatch (inp : Bytes) (cap p : Nat) : Nat × Nat :=
  match (offsets p).find? (fun o => 64 ≤ run inp cap p o) with
  | some o => (o, 63)
  | none =>
    if bestRun inp cap p < 3 then (0, 0)
    else
      match (offsets p).find? (fun o => run inp cap p o = bestRun inp cap p) with
      | some o => (o, bestRun inp cap p)
      | none => (0, 0)

/-- The open group and the stream so far, while `encodeStream` runs. -/
structure Packer where
  flags : Byte
  n : Nat
  items : Bytes
  out : Bytes
deriving DecidableEq, Repr

/-- `OUT = OUT ++ [FLAGS] ++ ITEMS; FLAGS = 0; n = 0; ITEMS = []` (R175). -/
def Packer.flush (k : Packer) : Packer := ⟨0x00#8, 0, [], k.out ++ [k.flags] ++ k.items⟩

/-- One item: a literal for `(0, 0)`, else a token; a full group is flushed (R175). -/
def Packer.put (k : Packer) (b : Byte) (r : Nat × Nat) : Packer :=
  let k1 : Packer :=
    if r = (0, 0) then { k with items := k.items ++ [b], n := k.n + 1 }
    else
      { k with
        items := k.items ++ [packByte1 r.1 r.2, packByte2 r.1], flags := flagsMark k.flags k.n, n := k.n + 1 }
  if k1.n = 8 then k1.flush else k1

/-- `while P < L` of `encode` (R175); the first argument bounds the number of items. -/
def packFrom (inp : Bytes) (cap : Nat) : Nat → Nat → Packer → Packer
  | 0, _, k => k
  | fuel + 1, p, k =>
    if p < inp.length then
      let r := bestMatch inp cap p
      packFrom inp cap fuel (if r = (0, 0) then p + 1 else p + r.2) (k.put (inp.getD p 0) r)
    else k

/-- The no-op fill of `encode` in `exactPad` mode (R175); the first argument bounds the number of rounds. -/
def noopFill : Nat → Packer → Packer
  | 0, k => k
  | fuel + 1, k =>
    if k.n < 8 ∧ (k.out.length + 1 + k.items.length) % 16 ≠ 0 then
      noopFill fuel { k with items := k.items ++ [0x00#8, 0x00#8], flags := flagsMark k.flags k.n, n := k.n + 1 }
    else k

/-- The number of bytes `default` mode appends to a stream of `u` bytes (R116). -/
def zeroPadCount (u : Nat) : Nat := (16 - u % 16) % 16

/-- The first `c` bytes of the endlessly repeated template (R121). -/
def templateBytes (c : Nat) : Bytes := (List.range c).map fun i => Config.template.getD (i % 17) 0x00#8

/-- The open group and the stream of the machine's ENC, as `encode` sees them. -/
def packerOf (e : Enc) : Packer :=
  ⟨e.tp.flags, e.tp.nitems, Memory.bytes Space.items.unlisted e.tp.items 0 e.tp.nbytes, e.out⟩

/-- The padding after the final flush, by mode (R115, R175). -/
def padTail (mode : PadMode) (out : Bytes) : Bytes :=
  match mode with
  | .default => out ++ List.replicate (zeroPadCount out.length) 0x00#8
  | .noPad => out
  | .exactPad => out ++ templateBytes (Config.padTable.getD (16 - out.length % 16) 0)

/-- `encode(IN, mode, cap)` (R175). -/
def encodeStream (inp : Bytes) (mode : PadMode) (cap : Nat) : Bytes :=
  let k := packFrom inp cap inp.length 0 ⟨0x00#8, 0, [], []⟩
  let k1 := if mode = .exactPad ∧ k.n > 0 then noopFill 8 k else k
  let k2 := if k1.n > 0 then k1.flush else k1
  padTail mode k2.out

/-- `hist(d)`: the byte produced `d` bytes ago, or 0x11 before the first one (20_memory.md R55). -/
def hist (out : Bytes) (d : Nat) : Byte := if d ≤ out.length then out.getD (out.length - d) 0x11#8 else 0x11#8

/-- `repeat len times` of `decode` (R176): the byte `dist` back is appended, over and over. -/
def copyBack (dist : Nat) : Nat → Bytes → Bytes
  | 0, out => out
  | n + 1, out => copyBack dist n (out ++ [hist out dist])

/-- "For each byte `k = 0, 1, .., length-1` in turn: read `WIN[(src + k) mod 1023]`, then emit it and write it to
`WIN[(CUR + k) mod 1023]`; only then byte `k + 1`" (20_memory.md R51): the bytes emitted and the window after them.
The first argument is the number of bytes to go, `k` the number already copied. -/
def copyLoop (src cur : Nat) : Nat → Nat → Memory → Bytes × Memory
  | 0, _, win => ([], win)
  | n + 1, k, win =>
    let b := Memory.read Space.win.unlisted win (windowAt src k)
    let r := copyLoop src cur n (k + 1) (Memory.write Space.win.unlisted win (windowAt cur k) b)
    (b :: r.1, r.2)

/-- The distance an offset field stands for: `if off = 0 then 1023 else off` (R162, R176). -/
def distance (off : BitVec 10) : Nat := if off = 0 then 1023 else off.toNat

/-- The loop of `decode` (R176) on the bytes still to read; the first argument bounds the number of items. -/
def decodeFrom : Nat → Byte → Nat → Bytes → Bytes → Bytes
  | 0, _, _, _, out => out
  | fuel + 1, _, 0, rest, out =>
    match rest with
    | [] => out
    | f :: rest1 => decodeFrom fuel f 8 rest1 out
  | fuel + 1, flg, fcnt + 1, rest, out =>
    if flgBit flg then
      match rest with
      | b1 :: b2 :: rest1 =>
        decodeFrom fuel (flgShift flg) fcnt rest1
          (copyBack (distance (unpackOffset b1 b2)) (unpackLength b1).toNat out)
      | _ => out
    else
      match rest with
      | [] => out
      | b :: rest1 => decodeFrom fuel (flgShift flg) fcnt rest1 (out ++ [b])

/-- `decode(SRC)` (R176). -/
def decodeStream (src : Bytes) : Bytes := decodeFrom (src.length + 1) 0x00#8 0 src []

/-- `decodeLimited(SRC, n)` (R176, R184), and `decode` where there is no limit. -/
def decodeLimited (src : Bytes) (lim : Option Nat) : Bytes :=
  match lim with
  | none => decodeStream src
  | some n => (decodeStream src).take n

end Sys2Proof.Machine.Ref
end

