-- ==== Sys2Proof/Safety.lean ====
section
/-! DEFINITION. Sys2Proof/Safety.lean: what holds between operations (10_state.md R30), when a step may be asked for
(60_exceptions.md R209, R211), and which states the machine and its host can reach. -/

namespace Sys2Proof.Machine

/-- The MatchFinder's registers, scratch between searches too, stay in their ranges (10_state.md R14). The lower bounds of
`REMAIN`, `OFS` and `MAXCHK` hold only once a search has written them: the reset values are the model's (log 3). Between two
searches the spec gives the registers no value (R14, U8): that they keep the last search's is the model's reading (log 24). -/
abbrev Mf.inRange (m : Mf) : Prop :=
  m.limit ≤ 1023 ∧ m.ofs ≤ 1024 ∧ m.maxchk ≤ 1023 ∧ m.k ≤ m.maxchk ∧ (m.besto = 0 ∨ 3 ≤ m.besto) ∧ m.besto ≤ 1023 ∧
    m.bestl ≤ 63

/-- The open group's counts stay in their ranges (10_state.md R15). -/
abbrev Tp.inRange (t : Tp) : Prop := t.nitems ≤ 8 ∧ t.nbytes ≤ 16

/-- The padding controller's registers stay in their ranges (10_state.md R18). The lower bound of `SHORT` holds only once
the template padding has written it (log 3); outside the padding the spec gives the registers no value (U8, log 24). -/
abbrev Pc.inRange (c : Pc) : Prop := c.short ≤ 16 ∧ c.padcnt ≤ 30 ∧ c.tidx ≤ 16

/-- The invariant of ENC (R30) with the ranges of R14, R15 and R18. "Running" is any state but `Idle` and `Done`. The clauses
`mf`, `maxchk`, `remain` and `pc` speak of registers outside their use as well, where the spec gives them no value (U8): there
they rest on the model's reading that such a register keeps what was last written (log 24). -/
structure Enc.Inv (e : Enc) : Prop where
  /-- the MatchFinder's registers are in range, in any state of ENC -/
  mf : e.mf.inRange
  /-- `MF.MAXCHK <= LOOKAHEAD_CAP` (R14) -/
  maxchk : e.mf.maxchk ≤ Config.lookaheadCap
  /-- `MF.REMAIN` is `1..L` in a run that has put an item (R14; between two searches: log 24) -/
  remain : e.running = true → 0 < e.p → 1 ≤ e.mf.remain ∧ e.mf.remain ≤ e.len
  /-- the open group's counts are in range, in any state of ENC -/
  tp : e.tp.inRange
  /-- the padding controller's registers are in range, in any state of ENC -/
  pc : e.pc.inRange
  /-- `IN` is in canonical form and has `L` bytes -/
  inWf : Memory.wf Space.inp.unlisted e.len e.inMem
  /-- `ITEMS` is in canonical form and has 16 bytes -/
  itemsWf : Memory.wf Space.items.unlisted Config.itemsSize e.tp.items
  /-- `ENC.TOTAL = len(ENC.OUT)` -/
  total : e.total = e.out.length
  /-- `0 <= P <= L` in a run -/
  pos : e.running = true → e.p ≤ e.len
  /-- the tail of a run begins when the input is exhausted (R115) -/
  exhausted : e.running = true → e.state ≠ .run → e.p = e.len
  /-- `NITEMS <= 7` whenever an item is about to be added; a group filled with no-ops may have 8 -/
  nitems : e.running = true → e.tp.nitems ≤ if e.state = .finalFlush then 8 else 7
  /-- nothing is open once the final group is flushed (R105) -/
  flushed : e.state = .zeroPad ∨ e.state = .templatePad → e.tp.nitems = 0
  /-- `NITEMS <= NBYTES <= 2 * NITEMS` (R15) -/
  nbytes : e.running = true → e.tp.nitems ≤ e.tp.nbytes ∧ e.tp.nbytes ≤ 2 * e.tp.nitems
  /-- `FLAGS[7 - i] = 0` for every `i >= NITEMS` -/
  flags : e.running = true → ∀ i, e.tp.nitems ≤ i → i < 8 → e.tp.flags.getLsbD (7 - i) = false
  /-- the size report is valid in `Done` (R125) -/
  csize : e.state = .done → e.csize = e.total

/-- Where the next byte of `OUT` goes in the window: `CUR`, and inside a copy `DSTP` (R24). -/
def Dec.writeIndex (d : Dec) : Nat := if d.state = .copy then d.dstp else d.cur

/-- The invariant of DEC in a run with OUT_LIMIT `lim` (R30) with the ranges of R19 to R24. `FLG`, `B1`, `OFF`, `LEN` and
`STG` have theirs in their types. `REM`, `SRCP` and `DSTP` outside a copy keep the last copy's values (log 24). -/
structure Dec.Inv (lim : Option Nat) (d : Dec) : Prop where
  /-- `WIN` is in canonical form and has 1023 bytes -/
  winWf : Memory.wf Space.win.unlisted Config.windowSize d.win
  /-- `CUR < 1023` -/
  cur : d.cur < 1023
  /-- `SRCP < 1023` -/
  srcp : d.srcp < 1023
  /-- `DSTP < 1023` -/
  dstp : d.dstp < 1023
  /-- `REM` is `0..63`, inside a copy or not (R24) -/
  rem : d.rem ≤ 63
  /-- `FCNT` is `0..8` (R20) -/
  fcnt : d.fcnt ≤ 8
  /-- `OCNT = len(OUT)` -/
  ocnt : d.ocnt = d.out.length
  /-- `IPOS` is `0..len(SRC)` in a run (R19) -/
  ipos : d.running = true → d.ipos ≤ d.src.length
  /-- a run that has not ended has not reached its limit (R143) -/
  belowLimit : d.running = true → ∀ n, lim = some n → d.ocnt < n
  /-- inside a copy: bytes are left, and both indices have moved by the bytes done (R24, R158, R159) -/
  copying : d.state = .copy →
    1 ≤ d.rem ∧ d.rem ≤ d.len.toNat ∧ d.dstp = windowAt d.cur (d.len.toNat - d.rem) ∧ d.srcp = windowSlot d.dstp d.off.toNat
  /-- the window holds the history (R55, R30) -/
  history : d.running = true → ∀ k, 1 ≤ k → k ≤ 1023 →
    Memory.read Space.win.unlisted d.win (windowSlot d.writeIndex k) = Ref.hist d.out k

/-- The invariant of the machine: both engines', and an engine runs only while `OP` selects it (R9). -/
structure State.Inv (s : State) : Prop where
  enc : s.enc.Inv
  dec : s.dec.Inv s.outLimit
  encOp : s.enc.running = true → s.op = .compress
  decOp : s.dec.running = true → s.op = .decompress

/-- What the host owes before a step: a START is given only to an engine that is `Idle` or `Done` (R209), and ENC's input
fits (R211). -/
def State.startAllowed (s : State) : Prop :=
  s.start = true →
    (s.op = .compress → s.enc.running = false ∧ s.enc.len ≤ Config.inCap) ∧
    (s.op = .decompress → s.dec.running = false)

/-- The states the machine and its host reach from power-on reset. -/
inductive Reachable : State → Prop where
  | reset : Reachable State.reset
  | step {s t : State} : Reachable s → Machine.step s = .next t → Reachable t
  | start {s : State} : Reachable s → Reachable (hostStart s)
  | setOp {s t : State} (op : Op) : Reachable s → hostSetOp op s = .next t → Reachable t
  | setPadMode {s t : State} (mode : PadMode) : Reachable s → hostSetPadMode mode s = .next t → Reachable t
  | setOutLimit {s t : State} (lim : Option Nat) : Reachable s → hostSetOutLimit lim s = .next t → Reachable t
  | loadIn {s t : State} (bs : Bytes) : Reachable s → hostLoadIn bs s = .next t → Reachable t
  | supplySrc {s t : State} (bs : Bytes) : Reachable s → hostSupplySrc bs s = .next t → Reachable t

end Sys2Proof.Machine
end

