-- ==== Sys2Proof/Certificates/Slice0/Obligations.lean ====
section
/-! DEFINITION. Sys2Proof/Certificates/Slice0/Obligations.lean: the statements for the provers. -/

namespace Sys2Proof

/-- The instruction is a copy, of either row, with the given fields (30_encoding.md R68). -/
def Instr.copies (i : Instr) (off : BitVec 10) (len : BitVec 6) : Prop :=
  len ≠ 0 ∧ ((off ≠ 0 ∧ i = .copy off len) ∨ (off = 0 ∧ i = .copy0 len))

end Sys2Proof

namespace Sys2Proof.Machine

/-! ## Names the statements use -/

/-- DEC after `TPR.SHIFT` and the fetch of an item of `size` bytes that was found in `Dispatch`: one flag bit shifted
out, `IPOS` past the item, and for a token byte1 in its latch (43_token_parser.md R138 to R140). -/
def Dec.itemFetched (size : Nat) (d : Dec) : Dec :=
  { d with
    flg := flgShift d.flg, fcnt := d.fcnt - 1, ipos := d.ipos + size
    b1 := if flgBit d.flg then d.src.getD d.ipos 0x00#8 else d.b1
    state := if flgBit d.flg then .readToken2 else .readLiteral }

/-- The parser is due to fetch and the bytes of what it fetches are not all there (R202). -/
def Dec.lacksBytes (d : Dec) : Prop :=
  match d.state with
  | .readFlagByte => d.src.length ≤ d.ipos
  | .dispatch => d.fcnt ≠ 0 ∧ d.src.length ≤ d.ipos + (if flgBit d.flg then 1 else 0)
  | .readLiteral => d.src.length ≤ d.ipos
  | .readToken1 => d.src.length ≤ d.ipos + 1
  | .readToken2 => d.src.length ≤ d.ipos
  | .idle => False
  | .copy => False
  | .done => False

/-- DEC after a whole copy of `len` bytes from window index `src`, with no limit in the way: the bytes of the per-byte
loop of 20_memory.md R51, the cursor and the copy registers moved on by `len` modulo 1023 (R158 to R160). -/
def Dec.copied (off : BitVec 10) (len : BitVec 6) (src : Nat) (d : Dec) : Dec :=
  let r := Ref.copyLoop src d.cur len.toNat 0 d.win
  { d with
    off := off, len := len, srcp := windowAt src len.toNat, dstp := windowAt d.cur len.toNat, rem := 0
    stg := r.1.getLastD 0x00#8, out := d.out ++ r.1, ocnt := d.ocnt + len.toNat, win := r.2
    cur := windowAt d.cur len.toNat, state := .dispatch }

/-- Bytes of the stream that the first `j` items of a group take up under its flag byte: two for a token, one for a literal
(30_encoding.md R66, 20_memory.md R46). -/
def firstItemsBytes (f : Byte) (j : Nat) : Nat :=
  ((List.range j).map fun i => if f.getLsbD (7 - i) then 2 else 1).sum

/-- OUT_LIMIT is not reached by the next `n` bytes. -/
def State.noLimitWithin (n : Nat) (s : State) : Prop := ∀ k, 1 ≤ k → k ≤ n → s.outLimit ≠ some (s.dec.ocnt + k)

/-- ENC has just been started (41_token_packer.md R100) and no other START is pending. -/
def State.encStarted (s : State) : Prop :=
  s.op = .compress ∧ s.start = false ∧ (∃ e : Enc, s.enc = e.startRun) ∧
    Memory.wf Space.inp.unlisted s.enc.len s.enc.inMem ∧
    Memory.wf Space.items.unlisted Config.itemsSize s.enc.tp.items

/-- DEC is about to be started: START is pending, DEC is `Idle` or `Done` (60_exceptions.md R209). -/
def State.decStarting (s : State) : Prop := s.op = .decompress ∧ s.start = true ∧ s.dec.running = false

/-- ENC is about to be started, with an input that fits (R209, R211). -/
def State.encStarting (s : State) : Prop :=
  s.op = .compress ∧ s.start = true ∧ s.enc.running = false ∧ s.enc.len ≤ Config.inCap

end Sys2Proof.Machine

open Sys2Proof Sys2Proof.Machine

/-! ## Encoding -/

/-- 30_encoding.md R61 to R65, R68: decoding what an instruction encodes to, whatever follows it, gives it back. -/
def Obligations.DecodeOfEncodeIsTheInstruction : Prop :=
  ∀ i : Instr, i.wf = true → ∀ rest : Bytes, decode i.slot (encode i ++ rest) = .ok (i, rest)

/-- 30_encoding.md R61 to R65, R68, the other direction: what is decoded is well formed, stands in the slot asked for, and
encodes to the very bytes it was read from. -/
def Obligations.EncodeOfDecodeIsTheBytes : Prop :=
  ∀ (sl : Slot) (bs rest : Bytes) (i : Instr), decode sl bs = .ok (i, rest) →
    i.slot = sl ∧ i.wf = true ∧ encode i ++ rest = bs

/-- 30_encoding.md R69: every flag byte, literal and token is an instruction, and in a state that keeps the invariant its
meaning answers a next state. -/
def Obligations.NoByteOrTokenIsIllegal : Prop :=
  ∀ s : State, s.Inv →
    (∀ f rest, ∃ i t, decode .header (f :: rest) = .ok (i, rest) ∧ exec i s = .next t) ∧
    (∀ b rest, ∃ i t, decode (.item false) (b :: rest) = .ok (i, rest) ∧ exec i s = .next t) ∧
    (∀ b1 b2 rest, ∃ i t, decode (.item true) (b1 :: b2 :: rest) = .ok (i, rest) ∧ exec i s = .next t)

/-- 30_encoding.md R68, R76: exactly one row of the opcode table selects an item's bit string by mask, match and
constraint, and it is the row of the instruction that the decoder reads; the bit string is the flag bit above the bytes. -/
def Obligations.DecodedItemIsTheTableRow : Prop :=
  (∀ b : Byte,
    tableWord (.lit b) = b.toNat ∧
    (opcodeTable.filter fun r => r.width == 9 && r.selects b.toNat).map (·.mnemonic) = ["LIT"]) ∧
  (∀ b1 b2 : Byte,
    tableWord (decodeToken b1 b2) = 0x10000 + b1.toNat * 256 + b2.toNat ∧
    (opcodeTable.filter fun r => r.width == 17 && r.selects (0x10000 + b1.toNat * 256 + b2.toNat)).map (·.mnemonic)
      = [(decodeToken b1 b2).mnemonic])

/-- 30_encoding.md R62 to R65, R68, 95_test_vectors.md V-TP-1, V-TP-2, V-TP-5, V-TPR-8, V-WR-6: words written out by hand. -/
def Obligations.HandWrittenWordsDecode : Prop :=
  decode .header [0x10#8] = .ok (.flags 0x10#8, []) ∧
  decode (.item false) [0x41#8] = .ok (.lit 0x41#8, []) ∧
  decode (.item true) [0x0C#8, 0x03#8] = .ok (.copy 3#10 3#6, []) ∧
  decode (.item true) [0xFF#8, 0xFF#8] = .ok (.copy 1023#10 63#6, []) ∧
  decode (.item true) [0x55#8, 0x55#8] = .ok (.copy 341#10 21#6, []) ∧
  decode (.item true) [0x00#8, 0x05#8] = .ok (.nop 5#10, []) ∧
  decode (.item true) [0xFC#8, 0x00#8] = .ok (.copy0 63#6, [])

/-- 30_encoding.md R76 and the fixed name `withFetchWord`: a well-formed instruction's table word decodes to it, and placed
where the machine fetches next it is what the very next step runs, on DEC as the fetch leaves it. -/
def Obligations.PlacedWordIsRunNext : Prop :=
  ∀ (i : Instr) (s : State), i.wf = true →
    decodeTableWord i.tableBits (tableWord i) = some i ∧
    ∃ d : Dec, step (s.withFetchWord i.tableBits (tableWord i)) =
        exec i { s with op := .decompress, start := false, dec := d } ∧
      d.win = s.dec.win ∧ d.cur = s.dec.cur ∧ d.out = s.dec.out ∧ d.ocnt = s.dec.ocnt

/-- 20_memory.md R46: item `i` of a group owns bit `7 - i` of the flag byte, on encode (marking item `n` sets exactly bit
`7 - n`) and on decode (the `i`-th shift gives bit `7 - i`). -/
def Obligations.ItemOwnsFlagBitFromTheTop : Prop :=
  ∀ f : Byte, ∀ i, i < 8 →
    (∀ n, n < 8 → (flagsMark f n).getLsbD (7 - i) = (f.getLsbD (7 - i) || decide (i = n))) ∧
    flgBit (flgShift^[i] f) = f.getLsbD (7 - i)

/-- 20_memory.md R43: one conditional addition of 1023 gives the slot of every distance 0..1023, in 0..1022; distances 0
and 1023 name the cursor's own slot; an index moves on by one, or by up to 63, modulo 1023. -/
def Obligations.WindowSlotIsDistanceModulo1023 : Prop :=
  ∀ cur, cur < 1023 →
    (∀ d, d ≤ 1023 → (windowSlot cur d : Int) = ((cur : Int) - d) % 1023 ∧ windowSlot cur d ≤ 1022) ∧
    windowSlot cur 0 = cur ∧ windowSlot cur 1023 = cur ∧
    windowNext cur = (cur + 1) % 1023 ∧ (∀ j, j ≤ 63 → windowAdvance cur j = (cur + j) % 1023)

/-! ## The parser -/

/-- A step in `Dispatch` with a flag bit left runs the instruction that the decoder reads at `IPOS` under that bit, on DEC
as the shift and the fetch leave it (43_token_parser.md R138 to R140). -/
def Obligations.StepRunsTheDecodedItem : Prop :=
  ∀ (s : State) (i : Instr) (rest : Bytes),
    s.start = false → s.op = .decompress → s.dec.state = .dispatch → s.dec.fcnt ≠ 0 →
    decode (.item (flgBit s.dec.flg)) (s.dec.src.drop s.dec.ipos) = .ok (i, rest) →
    step s = exec i { s with dec := s.dec.itemFetched i.size } ∧ rest = s.dec.src.drop (s.dec.ipos + i.size)

/-- A step in `ReadFlagByte` runs the flag byte that the decoder reads at `IPOS` (43_token_parser.md R137). -/
def Obligations.StepRunsTheDecodedFlagByte : Prop :=
  ∀ (s : State) (i : Instr) (rest : Bytes),
    s.start = false → s.op = .decompress → s.dec.state = .readFlagByte →
    decode .header (s.dec.src.drop s.dec.ipos) = .ok (i, rest) →
    step s = exec i { s with dec := { s.dec with ipos := s.dec.ipos + 1 } } ∧
      rest = s.dec.src.drop (s.dec.ipos + 1)

/-- 43_token_parser.md R138: in `Dispatch` the parser goes back for a flag byte when `FCNT = 0`; else bit 7 of `FLG`
decides what is read, `FLG` moves up by one bit and `FCNT` drops by one. The machine's step makes the first move alone. -/
def Obligations.ShiftConsumesTheTopFlagBit : Prop :=
  ∀ (s : State) (lim : Option Nat), s.dec.state = .dispatch →
    (s.dec.fcnt = 0 → s.dec.micro lim = .ok { s.dec with state := .readFlagByte } ∧
      (s.start = false → s.op = .decompress → step s = .next { s with dec := { s.dec with state := .readFlagByte } })) ∧
    (s.dec.fcnt ≠ 0 → ∃ d, s.dec.micro lim = .ok d ∧
      d.flg.toNat = s.dec.flg.toNat * 2 % 256 ∧ d.fcnt + 1 = s.dec.fcnt ∧
      d.state = (if s.dec.flg.toNat / 128 = 0 then .readLiteral else .readToken1) ∧
      d = { s.dec with flg := d.flg, fcnt := d.fcnt, state := d.state })

/-- 60_exceptions.md R202: whenever a flag byte, a literal or either byte of a token is unavailable DEC goes to `Done`, with
all it has emitted and nothing more. That `WIN` and `CUR` are as before in `Done` and `IPOS` is `len(SRC)` is no rule of the
spec, which gives scratch in `Done` no value (R205, U8, U11): it is the model's reading, log 14. -/
def Obligations.EndOfInputEndsTheRun : Prop :=
  ∀ s : State, s.start = false → s.op = .decompress → s.dec.lacksBytes →
    ∃ t, step s = .next t ∧ t.dec.state = .done ∧ t.dec.out = s.dec.out ∧ t.dec.ocnt = s.dec.ocnt ∧
      t.dec.win = s.dec.win ∧ t.dec.cur = s.dec.cur ∧ t.enc = s.enc ∧
      t.op = s.op ∧ t.padMode = s.padMode ∧ t.outLimit = s.outLimit ∧
      (s.dec.ipos ≤ s.dec.src.length → t.dec.ipos = s.dec.src.length)

/-- 43_token_parser.md R145: a step of DEC is a row of the transition table, or several in a row, whatever state DEC is in. -/
def Obligations.StepIsRowsOfTheTransitionTable : Prop :=
  ∀ s : State, s.start = false → s.op = .decompress →
    ∃ n, 1 ≤ n ∧ n ≤ s.dec.rem + 66 ∧ step s = s.liftDec (Dec.microRun s.outLimit n s.dec)

/-- 43_token_parser.md R144: `IPOS` advances by the size of what is read: 1 for a flag byte, 1 for a literal, 2 for a
token, whatever the item does; and no step moves it backward or changes the stream. -/
def Obligations.StreamPositionAdvancesBySize : Prop :=
  (∀ (s t : State) (i : Instr) (rest : Bytes) (sl : Slot),
    s.start = false → s.op = .decompress →
    (s.dec.state = .readFlagByte ∧ sl = .header ∨
      s.dec.state = .dispatch ∧ s.dec.fcnt ≠ 0 ∧ sl = .item (flgBit s.dec.flg)) →
    decode sl (s.dec.src.drop s.dec.ipos) = .ok (i, rest) → step s = .next t →
    t.dec.ipos = s.dec.ipos + (match i with | .flags _ => 1 | .lit _ => 1 | .nop _ => 2 | .copy _ _ => 2 | .copy0 _ => 2)) ∧
  (∀ s t : State, s.start = false → step s = .next t → s.dec.ipos ≤ t.dec.ipos ∧ t.dec.src = s.dec.src)

/-! ## The five instructions -/

/-- 43_token_parser.md R137: a flag byte loads `FLG`, sets `FCNT` to 8 and changes nothing else; in `ReadFlagByte` the step
does so with the byte at `IPOS`, or ends the run where there is none. -/
def Obligations.FlagByteLoadsTheShiftRegister : Prop :=
  (∀ (f : Byte) (s : State),
    exec (.flags f) s = .next { s with dec := { s.dec with flg := f, fcnt := 8, state := .dispatch } }) ∧
  (∀ s : State, s.start = false → s.op = .decompress → s.dec.state = .readFlagByte →
    (∀ f, s.dec.src[s.dec.ipos]? = some f →
      step s = .next { s with
        dec := { s.dec with ipos := s.dec.ipos + 1, flg := f, fcnt := 8, state := .dispatch } }) ∧
    (s.dec.src[s.dec.ipos]? = none → step s = .next { s with dec := { s.dec with state := .done } }))

/-- 44_window_reconstructor.md R156: a literal is emitted, written at the cursor, and the cursor moves on by one modulo
1023; the limit test follows. Nothing else changes. -/
def Obligations.LiteralIsEmittedAndWritten : Prop :=
  ∀ (b : Byte) (s : State), s.dec.cur < 1023 →
    exec (.lit b) s = .next { s with dec := { s.dec with
      out := s.dec.out ++ [b], ocnt := s.dec.ocnt + 1
      win := Memory.write Space.win.unlisted s.dec.win s.dec.cur b
      cur := (s.dec.cur + 1) % 1023
      state := if s.outLimit = some (s.dec.ocnt + 1) then .done else .dispatch } }

/-- The frame of a literal (44_window_reconstructor.md R156): of the window only the slot at the cursor changes, and it holds
the byte; registers other than `CUR`, `OUT`, `OCNT` and `STATE`, the configuration and ENC are unchanged. -/
def Obligations.LiteralFrame : Prop :=
  ∀ (b : Byte) (s t : State), Memory.wf Space.win.unlisted Config.windowSize s.dec.win → exec (.lit b) s = .next t →
    (∀ a, Memory.read Space.win.unlisted t.dec.win a =
      if a = s.dec.cur then b else Memory.read Space.win.unlisted s.dec.win a) ∧
    t = { s with dec := { s.dec with
      out := t.dec.out, ocnt := t.dec.ocnt, win := t.dec.win, cur := t.dec.cur, state := t.dec.state } }

/-- 44_window_reconstructor.md R157: a no-op token leaves `OUT`, `OCNT`, `WIN` and `CUR` unchanged whatever its offset field;
in a step its only effects are the parser's, one flag bit shifted out and `IPOS` advanced by 2. The latches hold what R140
wrote; that they keep it after the item, outside their use (U8), is the model's reading, log 24. -/
def Obligations.NopOnlyMovesTheParser : Prop :=
  (∀ (off : BitVec 10) (s : State),
    exec (.nop off) s = .next { s with dec := { s.dec with off := off, len := 0#6, state := .dispatch } }) ∧
  (∀ (s : State) (b1 b2 : Byte), s.start = false → s.op = .decompress → s.dec.state = .dispatch → s.dec.fcnt ≠ 0 →
    flgBit s.dec.flg = true → s.dec.src[s.dec.ipos]? = some b1 → s.dec.src[s.dec.ipos + 1]? = some b2 →
    b1.toNat < 4 →
    step s = .next { s with dec := { s.dec with
      flg := flgShift s.dec.flg, fcnt := s.dec.fcnt - 1, ipos := s.dec.ipos + 2
      b1 := b1, off := unpackOffset b1 b2, len := 0#6 } })

/-- 44_window_reconstructor.md R158, R159, R160, 20_memory.md R51: `COPY off,len` copies `len` bytes from `off` back, each
read before it is written and written before the next is read, and then moves the cursor by `len`. The latches and the copy
registers have the values that R140, R158 and R159 last wrote; that they keep them after the copy, outside their use (U8), is
the model's reading, log 24. -/
def Obligations.CopyRunsTheByteLoop : Prop :=
  ∀ (off : BitVec 10) (len : BitVec 6) (s : State), s.dec.cur < 1023 → len ≠ 0 → s.noLimitWithin len.toNat →
    ∀ src, src = (if off.toNat ≤ s.dec.cur then s.dec.cur - off.toNat else s.dec.cur + 1023 - off.toNat) →
      exec (.copy off len) s = .next { s with dec := s.dec.copied off len src }

/-- 44_window_reconstructor.md R162: `COPY 0,len` copies from the cursor itself, which is 1023 back; but for the offset latch
it leaves the machine as `COPY 1023,len` does. The latches and the copy registers after the copy: log 24,
and in `Done`, where OUT_LIMIT stops it, log 14. -/
def Obligations.Copy0CopiesFrom1023Back : Prop :=
  ∀ (len : BitVec 6) (s : State), s.dec.cur < 1023 → len ≠ 0 →
    (s.noLimitWithin len.toNat →
      exec (.copy0 len) s = .next { s with dec := s.dec.copied 0#10 len s.dec.cur }) ∧
    (∃ t, exec (.copy 1023#10 len) s = .next t ∧
      exec (.copy0 len) s = .next { t with dec := { t.dec with off := 0#10 } })

/-- The frame of a copy, of either row and whether or not the limit stops it (44_window_reconstructor.md R158 to R160): of
the window only the `len` slots from the cursor on may change; registers other than the copy's own, `CUR`, `OUT`, `OCNT`
and `STATE`, the configuration and ENC are unchanged. `OFF` and `LEN` hold the token's fields, which R140 wrote; that they keep
them after the copy, where the spec gives them no value (R23, U8), is the model's reading, log 24, and in `Done`, where OUT_LIMIT
stops the copy, log 14. -/
def Obligations.CopyFrame : Prop :=
  ∀ (i : Instr) (off : BitVec 10) (len : BitVec 6) (s t : State), i.copies off len → s.dec.cur < 1023 →
    Memory.wf Space.win.unlisted Config.windowSize s.dec.win → exec i s = .next t →
    (∀ a, (∀ k, k < len.toNat → a ≠ windowAt s.dec.cur k) →
      Memory.read Space.win.unlisted t.dec.win a = Memory.read Space.win.unlisted s.dec.win a) ∧
    t = { s with dec := { s.dec with
      off := off, len := len, srcp := t.dec.srcp, dstp := t.dec.dstp, rem := t.dec.rem, stg := t.dec.stg
      out := t.dec.out, ocnt := t.dec.ocnt, win := t.dec.win, cur := t.dec.cur, state := t.dec.state } }

/-- 43_token_parser.md R143: the `Emit` that makes `OCNT = n` ends the run at once, of a literal or in the middle of a copy,
nothing is emitted afterwards, a limit of 0 ends the run at the start, and without a limit only the end of the input ends
a run. -/
def Obligations.OutputLimitTruncates : Prop :=
  (∀ (s : State) (b : Byte), s.outLimit = some (s.dec.ocnt + 1) → s.dec.cur < 1023 →
    ∃ t, exec (.lit b) s = .next t ∧ t.dec.state = .done ∧ t.dec.ocnt = s.dec.ocnt + 1 ∧ t.dec.out = s.dec.out ++ [b]) ∧
  (∀ (s : State) (i : Instr) (off : BitVec 10) (len : BitVec 6) (n : Nat), i.copies off len → s.dec.cur < 1023 →
    s.outLimit = some n → s.dec.ocnt < n → n ≤ s.dec.ocnt + len.toNat →
    ∃ t, exec i s = .next t ∧ t.dec.state = .done ∧ t.dec.ocnt = n ∧
      t.dec.out = s.dec.out ++
        (Ref.copyLoop (windowSlot s.dec.cur off.toNat) s.dec.cur len.toNat 0 s.dec.win).1.take (n - s.dec.ocnt)) ∧
  (∀ s t : State, s.start = false → s.dec.state = .done → step s = .next t → t.dec.out = s.dec.out) ∧
  (∀ s : State, s.decStarting → s.outLimit = some 0 → ∃ t, step s = .next t ∧ t.dec.state = .done ∧ t.dec.out = []) ∧
  (∀ s t : State, s.start = false → s.op = .decompress → s.outLimit = none → s.dec.running = true → step s = .next t →
    t.dec.state = .done → s.dec.lacksBytes)

/-- 44_window_reconstructor.md R161 with R162, 20_memory.md R55: in a state that keeps the invariant a copy appends, byte
after byte, the byte that stands its distance back in the output, 0x11 before the start; offset 0 is distance 1023. -/
def Obligations.CopyAppendsTheHistory : Prop :=
  ∀ (i : Instr) (off : BitVec 10) (len : BitVec 6) (s : State), i.copies off len → s.Inv → s.dec.running = true →
    s.dec.state ≠ .copy → s.noLimitWithin len.toNat →
    ∃ t, exec i s = .next t ∧ t.dec.out = Ref.copyBack (if off = 0 then 1023 else off.toNat) len.toNat s.dec.out

/-- 44_window_reconstructor.md R161: byte `k` of a copy whose offset reaches no further back than the output equals the byte
`off` before it in the output the copy leaves, so that an overlapping copy repeats its own bytes. -/
def Obligations.OverlappingCopyRepeats : Prop :=
  ∀ (off : BitVec 10) (len : BitVec 6) (s t : State), off ≠ 0 → len ≠ 0 → s.Inv → s.dec.running = true →
    s.dec.state ≠ .copy → s.noLimitWithin len.toNat → exec (.copy off len) s = .next t →
    ∀ k, k < len.toNat → off.toNat ≤ s.dec.out.length + k →
      t.dec.out[s.dec.out.length + k]? = t.dec.out[s.dec.out.length + k - off.toNat]? ∧
      s.dec.out.length + k < t.dec.out.length

/-- 44_window_reconstructor.md R163: a byte of a copy that reaches further back than the bytes produced is 0x11. -/
def Obligations.CopyOfPreHistoryIsFill : Prop :=
  ∀ (i : Instr) (off : BitVec 10) (len : BitVec 6) (s t : State), i.copies off len → s.Inv → s.dec.running = true →
    s.dec.state ≠ .copy → s.noLimitWithin len.toNat → exec i s = .next t →
    ∀ k, k < len.toNat → s.dec.out.length + k < (if off = 0 then 1023 else off.toNat) →
      t.dec.out[s.dec.out.length + k]? = some 0x11#8

/-! ## Reset, start, and what every step keeps -/

/-- 70_reset_and_hazards.md R220: after power-on reset both engines are `Idle` and both outputs empty, and an engine does
nothing until START. -/
def Obligations.ResetIsIdleAndEmpty : Prop :=
  State.reset.enc.state = .idle ∧ State.reset.dec.state = .idle ∧ State.reset.enc.out = [] ∧ State.reset.dec.out = [] ∧
  (∀ s : State, s.start = false → s.enc.state = .idle → s.dec.state = .idle → step s = .next s)

/-- 70_reset_and_hazards.md R221: what the start of an ENC run writes, and nothing else. That `MF`, `PC`, `ITEMS` and `CSIZE`,
which R28 calls unspecified at a start, are as before is the model's reading, log 22; the request that is pending before and
gone after is the model's form of START, log 8. -/
def Obligations.EncStartWritesItsRegisters : Prop :=
  ∀ s : State, s.encStarting →
    step s = .next { s with
      start := false
      enc := { s.enc with
        p := 0, tp := { s.enc.tp with flags := 0x00#8, nitems := 0, nbytes := 0 }, total := 0, out := [], state := .run } }

/-- 70_reset_and_hazards.md R222: what the start of a DEC run writes: 0x11 in all 1023 slots, the registers, and
`ReadFlagByte`; with an OUT_LIMIT of 0 the run is over at once (43_token_parser.md R136). That `FLG`, the token latches and
the copy registers, which R28 calls unspecified at a start, are as before is the model's reading, log 22; the request that is
pending before and gone after is the model's form of START, log 8. -/
def Obligations.DecStartFillsTheWindow : Prop :=
  ∀ s : State, s.decStarting →
    ∃ t, step s = .next t ∧ (∀ a, a < 1023 → Memory.read Space.win.unlisted t.dec.win a = 0x11#8) ∧
      t = { s with
        start := false
        dec := { s.dec with
          win := t.dec.win, cur := 0, ipos := 0, fcnt := 0, ocnt := 0, out := []
          state := if s.outLimit = some 0 then .done else .readFlagByte } }

/-- 60_exceptions.md R209 with 93_implementation_defined.md U6, and R211 with U5: START of a running engine is given no
step, and START of ENC with an input larger than `IN_CAP` is turned down. The names of the two stops are the model's
(logs 2 and 9). -/
def Obligations.StartIsTurnedDownByName : Prop :=
  (∀ s : State, s.start = true →
    (s.op = .compress ∧ s.enc.running = true ∨ s.op = .decompress ∧ s.dec.running = true) →
    step s = .fault .startWhileRunning) ∧
  (∀ s : State, s.start = true → s.op = .compress → s.enc.running = false → Config.inCap < s.enc.len →
    step s = .refused .inputTooLarge)

/-- 42_padding_controller.md R126, 43_token_parser.md R142, R206: an engine that is `Done` or `Idle` stays as it is until the
next START. -/
def Obligations.DoneStaysUntilTheNextStart : Prop :=
  ∀ s : State, s.start = false →
    (s.op = .compress → s.enc.running = false → step s = .next s) ∧
    (s.op = .decompress → s.dec.running = false → step s = .next s)

/-- 00_scope.md R2, 10_state.md R10: a step of one engine leaves the other as it is, and what it does depends on nothing of
the other's. -/
def Obligations.EnginesShareNoState : Prop :=
  ∀ s t : State, step s = .next t →
    (s.op = .compress → t.dec = s.dec ∧ ∀ d : Dec, step { s with dec := d } = .next { t with dec := d }) ∧
    (s.op = .decompress → t.enc = s.enc ∧ ∀ e : Enc, step { s with enc := e } = .next { t with enc := e })

/-- 20_memory.md R53, 10_state.md R11, R12: no step writes `IN`, `L`, `SRC` or the configuration. -/
def Obligations.InputsAreNeverWritten : Prop :=
  ∀ s t : State, step s = .next t →
    t.enc.inMem = s.enc.inMem ∧ t.enc.len = s.enc.len ∧ t.dec.src = s.dec.src ∧
    t.op = s.op ∧ t.padMode = s.padMode ∧ t.outLimit = s.outLimit

/-- 20_memory.md R44: the outputs are append only, and `SRC` is consumed strictly forward. -/
def Obligations.OutputsOnlyGrow : Prop :=
  ∀ s t : State, s.start = false → step s = .next t →
    s.enc.out <+: t.enc.out ∧ s.dec.out <+: t.dec.out ∧ s.dec.ipos ≤ t.dec.ipos ∧ t.dec.src = s.dec.src

/-- 10_state.md R30: the invariant holds after power-on reset. -/
def Obligations.InvariantHoldsAtReset : Prop := State.reset.Inv

/-- 10_state.md R30, with the ranges of R14, R15, R18 and R19 to R24: every step keeps the invariant: the memories' canonical
form, every register within the upper bound the spec gives it (`P`, `REMAIN` and `IPOS` in a run), the open group, `TOTAL` and
`OCNT` against the outputs, and the window as the history (20_memory.md R55). What it says of scratch registers outside their
use, `MF` between two searches among them, where the spec gives them no value (R14, U8), is the model's reading, log 24. -/
def Obligations.StepKeepsTheInvariant : Prop := ∀ s t : State, s.Inv → step s = .next t → t.Inv

/-- 10_state.md R30: every state that the machine and its host reach from power-on reset keeps the invariant. What the
invariant says of scratch registers outside their use is the model's reading (logs 3, 14, 22, 24). -/
def Obligations.ReachableStatesKeepTheInvariant : Prop := ∀ s : State, Reachable s → s.Inv

/-- 60_exceptions.md R200: from a state that keeps the invariant every step the host may ask for answers a next state: no
fault, no refusal. -/
def Obligations.CoreRaisesNoFault : Prop := ∀ s : State, s.Inv → s.startAllowed → ∃ t, step s = .next t

/-- 10_state.md R28: two DEC runs with the same `SRC` and `OUT_LIMIT` produce the same, step by step, whatever was in the
machine before their starts. -/
def Obligations.DecRunForgetsThePast : Prop :=
  ∀ s1 s2 : State, s1.decStarting → s2.decStarting → s1.dec.src = s2.dec.src → s1.outLimit = s2.outLimit →
    ∀ (n : Nat) (t1 : State), Host.Core.run Sys2Proof.core (n + 1) s1 = .next t1 →
      ∃ t2, Host.Core.run Sys2Proof.core (n + 1) s2 = .next t2 ∧
        t2.dec.out = t1.dec.out ∧ t2.dec.state = t1.dec.state ∧ t2.dec.ipos = t1.dec.ipos ∧ t2.dec.cur = t1.dec.cur

/-- 10_state.md R28: two ENC runs with the same input and `PAD_MODE` produce the same, step by step, whatever was in the
machine before their starts. -/
def Obligations.EncRunForgetsThePast : Prop :=
  ∀ s1 s2 : State, s1.encStarting → s2.encStarting → s1.enc.inMem = s2.enc.inMem → s1.enc.len = s2.enc.len →
    s1.padMode = s2.padMode → Memory.wf Space.items.unlisted Config.itemsSize s1.enc.tp.items →
    Memory.wf Space.items.unlisted Config.itemsSize s2.enc.tp.items →
    ∀ (n : Nat) (t1 : State), Host.Core.run Sys2Proof.core (n + 1) s1 = .next t1 →
      ∃ t2, Host.Core.run Sys2Proof.core (n + 1) s2 = .next t2 ∧
        t2.enc.out = t1.enc.out ∧ t2.enc.state = t1.enc.state ∧ t2.enc.p = t1.enc.p ∧
        (t1.enc.state = .done → t2.enc.csize = t1.enc.csize)

/-- 70_reset_and_hazards.md R224: any start value of the cursor gives the same output for every `SRC`. -/
def Obligations.StartCursorIsUnobservable : Prop :=
  ∀ (s : State) (c : Nat), s.op = .decompress → s.start = false → (∃ d : Dec, s.dec = d.startRun s.outLimit) → c < 1023 →
    ∀ (n : Nat) (t : State), Host.Core.run Sys2Proof.core n s = .next t →
      ∃ t', Host.Core.run Sys2Proof.core n { s with dec := { s.dec with cur := c } } = .next t' ∧
        t'.dec.out = t.dec.out ∧ t'.dec.state = t.dec.state ∧ t'.dec.ipos = t.dec.ipos

/-! ## The encoder -/

/-- 40_match_finder.md R82: at positions 0, 1 and 2 there is no match and no byte of `IN` is read. -/
def Obligations.FirstThreePositionsHaveNoMatch : Prop :=
  ∀ (e : Enc) (cap : Nat), e.p < 3 → e.mfSearch cap = .ok e.mfInit ∧ e.mfInit.mf.result = (0, 0)

/-- 40_match_finder.md R80: a search writes only the MatchFinder's registers, and its result is a function of `IN`, `L`, `P`
and `LOOKAHEAD_CAP`. -/
def Obligations.SearchHasNoSideEffects : Prop :=
  ∀ (e e' : Enc) (cap : Nat) (r : Enc), e.inMem = e'.inMem → e.len = e'.len → e.p = e'.p → e.mfSearch cap = .ok r →
    r = { e with mf := r.mf } ∧ ∃ r', e'.mfSearch cap = .ok r' ∧ r'.mf.result = r.mf.result

/-- 40_match_finder.md R91, R92: the scanner's result is the closed form that every implementation of the search must
equal. -/
def Obligations.SearchIsTheClosedForm : Prop :=
  ∀ (e : Enc) (cap : Nat), 63 ≤ cap → e.p < e.len →
    ∃ r, e.mfSearch cap = .ok r ∧ r.mf.result = Ref.bestMatch e.input cap e.p

/-- 40_match_finder.md R94: the bounds on a returned match, and that its bytes are the bytes `offset` back. -/
def Obligations.ReturnedMatchIsInBounds : Prop :=
  ∀ (e r : Enc) (cap o l : Nat), 63 ≤ cap → e.p < e.len → e.mfSearch cap = .ok r → r.mf.result = (o, l) →
    (o, l) ≠ (0, 0) →
    3 ≤ o ∧ o ≤ min e.p 1023 ∧ 3 ≤ l ∧ l ≤ 63 ∧ l ≤ o ∧ e.p + l ≤ e.len ∧
    ∀ k, k < l → e.input[e.p - o + k]? = e.input[e.p + k]?

/-- 40_match_finder.md R87 with R88: a smaller offset has a strictly shorter run than the match returned, but for a run of
exactly 63 that a run clamped from 64 or more replaces. -/
def Obligations.SmallestOffsetWinsTies : Prop :=
  ∀ (e r : Enc) (cap o l : Nat), 63 ≤ cap → e.p < e.len → e.mfSearch cap = .ok r → r.mf.result = (o, l) →
    (o, l) ≠ (0, 0) →
    ∀ o', 3 ≤ o' → o' < o →
      Ref.run e.input cap e.p o' < l ∨ (l = 63 ∧ Ref.run e.input cap e.p o' = 63 ∧ 64 ≤ Ref.run e.input cap e.p o)

/-- 41_token_packer.md R101: `TP.PUT_LIT`. -/
def Obligations.PutLiteralAppendsTheByte : Prop :=
  ∀ e : Enc, e.p < e.len → e.tp.nbytes < 16 →
    e.putLit = .ok { e with
      p := e.p + 1
      tp := { e.tp with
        items := Memory.write Space.items.unlisted e.tp.items e.tp.nbytes (Memory.read Space.inp.unlisted e.inMem e.p)
        nbytes := e.tp.nbytes + 1, nitems := e.tp.nitems + 1 } }

/-- 41_token_packer.md R102, 30_encoding.md R64: `TP.PUT_MATCH(o, l)` appends the two bytes `length * 4 + offset / 256` and
`offset mod 256`, sets bit `7 - NITEMS` of the flag byte, and moves the cursor by the length. -/
def Obligations.PutMatchAppendsTheToken : Prop :=
  ∀ (e : Enc) (o l : Nat), o ≤ 1023 → l ≤ 63 → e.tp.nitems ≤ 7 → e.tp.nbytes < 15 →
    ∃ r, e.putMatch o l = .ok r ∧ r.p = e.p + l ∧ r.tp.nitems = e.tp.nitems + 1 ∧ r.tp.nbytes = e.tp.nbytes + 2 ∧
      r.tp.items = Memory.write Space.items.unlisted
        (Memory.write Space.items.unlisted e.tp.items e.tp.nbytes (BitVec.ofNat 8 (l * 4 + o / 256)))
        (e.tp.nbytes + 1) (BitVec.ofNat 8 (o % 256)) ∧
      (∀ i, i < 8 → r.tp.flags.getLsbD i = (e.tp.flags.getLsbD i || decide (i = 7 - e.tp.nitems))) ∧
      r = { e with p := r.p, tp := r.tp }

/-- 41_token_packer.md R104: a flush emits the flag byte, then the item bytes in order, and clears the group. -/
def Obligations.FlushEmitsFlagByteThenItems : Prop :=
  ∀ e : Enc, e.tp.nbytes ≤ 16 →
    e.flush = .ok { e with
      out := e.out ++ e.tp.flags :: Memory.bytes Space.items.unlisted e.tp.items 0 e.tp.nbytes
      total := e.total + 1 + e.tp.nbytes
      tp := { e.tp with flags := 0x00#8, nitems := 0, nbytes := 0 } }

/-- 41_token_packer.md R100 to R104, R106: a step of a running ENC at the end of its input goes on to the tail; before it, it
puts one item, which the closed form of the search at `P` decides, flushes the group if that filled it, and moves `P` by
1 or by the match's length. -/
def Obligations.EncStepPutsOneItem : Prop :=
  ∀ s : State, s.Inv → s.start = false → s.enc.state = .run →
    (s.enc.p = s.enc.len →
      step s = .next { s with enc :=
        { s.enc with state := if s.padMode = .exactPad then .nopFill else .finalFlush } }) ∧
    (s.enc.p < s.enc.len → ∃ t, step s = .next t ∧
      Ref.packerOf t.enc = (Ref.packerOf s.enc).put (Memory.read Space.inp.unlisted s.enc.inMem s.enc.p)
        (Ref.bestMatch s.enc.input Config.lookaheadCap s.enc.p) ∧
      t.enc.p = s.enc.p + (if Ref.bestMatch s.enc.input Config.lookaheadCap s.enc.p = (0, 0) then 1
        else (Ref.bestMatch s.enc.input Config.lookaheadCap s.enc.p).2) ∧
      t.enc.state = .run ∧ t.enc.total = t.enc.out.length ∧
      t = { s with enc := { s.enc with
        p := t.enc.p, mf := t.enc.mf, tp := t.enc.tp, out := t.enc.out, total := t.enc.total } })

/-- 41_token_packer.md R105: the final flush emits the open group if it has items, and no lone flag byte if it has none;
`PAD_MODE` says where it leads. -/
def Obligations.FinalFlushEmitsNoLoneFlagByte : Prop :=
  ∀ (e : Enc) (mode : PadMode), e.tp.nbytes ≤ 16 →
    ∃ r, e.finalFlush mode = .ok r ∧
      (e.tp.nitems = 0 → r.out = e.out ∧ r.total = e.total ∧ r.tp = e.tp) ∧
      (0 < e.tp.nitems →
        r.out = e.out ++ e.tp.flags :: Memory.bytes Space.items.unlisted e.tp.items 0 e.tp.nbytes ∧
        r.total = e.total + 1 + e.tp.nbytes ∧ r.tp = { e.tp with flags := 0x00#8, nitems := 0, nbytes := 0 }) ∧
      r.state = (match mode with | .default => .zeroPad | .noPad => .done | .exactPad => .templatePad) ∧
      r = { e with out := r.out, total := r.total, tp := r.tp, csize := r.csize, state := r.state }

/-- 42_padding_controller.md R118 with R119: the no-op fill adds the least number `k` of no-op tokens after which the group
is full or the eventual total is a multiple of 16, none to an empty group; each is two zero bytes and a flag bit 1. -/
def Obligations.NopFillStopsAtFullOrAligned : Prop :=
  ∀ e : Enc, Memory.wf Space.items.unlisted Config.itemsSize e.tp.items → e.tp.nitems ≤ 8 →
    e.tp.nbytes ≤ 2 * e.tp.nitems →
    ∃ (k : Nat) (r : Enc), e.nopFill = .ok r ∧ r.state = .finalFlush ∧
      r.tp.nitems = e.tp.nitems + k ∧ r.tp.nbytes = e.tp.nbytes + 2 * k ∧
      (e.tp.nitems = 0 → k = 0) ∧
      (0 < e.tp.nitems → r.tp.nitems = 8 ∨ (r.total + 1 + r.tp.nbytes) % 16 = 0) ∧
      (∀ j, j < k → e.tp.nitems + j < 8 ∧ (e.total + 1 + e.tp.nbytes + 2 * j) % 16 ≠ 0) ∧
      Memory.bytes Space.items.unlisted r.tp.items 0 r.tp.nbytes =
        Memory.bytes Space.items.unlisted e.tp.items 0 e.tp.nbytes ++ List.replicate (2 * k) 0x00#8 ∧
      (∀ i, i < 8 → r.tp.flags.getLsbD (7 - i) =
        (e.tp.flags.getLsbD (7 - i) || decide (e.tp.nitems ≤ i ∧ i < e.tp.nitems + k))) ∧
      r = { e with tp := r.tp, state := r.state }

/-- 42_padding_controller.md R116: zero padding appends `(16 - TOTAL mod 16) mod 16` zero bytes; the new total is a multiple
of 16, and the run is done with that total as its size report (R125, R126). That the same operation performs `ENC.DONE` is log
19, and that the other registers are as before in `Done` is log 14: both are the model's reading. -/
def Obligations.ZeroPadReachesTheBoundary : Prop :=
  ∀ e : Enc,
    e.zeroPad.out = e.out ++ List.replicate ((16 - e.total % 16) % 16) 0x00#8 ∧
    e.zeroPad.total = e.total + (16 - e.total % 16) % 16 ∧ e.zeroPad.total % 16 = 0 ∧
    e.zeroPad = { e with
      out := e.zeroPad.out, total := e.zeroPad.total, csize := e.zeroPad.total, state := .done }

/-- 42_padding_controller.md R121: the exact-pad filler is the first `PAD_TABLE[SHORT]` bytes of the endlessly repeated
template, `SHORT` being the bytes short of the next boundary; the run is then done (R125, R126). The values of `SHORT`,
`PADCNT` and `TIDX` in `Done`, where the spec gives scratch no value (U8, R205), are the model's reading, log 14; that the same
operation performs `ENC.DONE` is log 19. -/
def Obligations.TemplatePadAppendsTheTableCount : Prop :=
  ∀ e : Enc,
    e.templatePad.out = e.out ++ Ref.templateBytes
      ([0, 1, 18, 3, 20, 5, 22, 7, 24, 9, 26, 11, 28, 13, 30, 15, 0].getD (16 - e.total % 16) 0) ∧
    e.templatePad.total = e.total +
      [0, 1, 18, 3, 20, 5, 22, 7, 24, 9, 26, 11, 28, 13, 30, 15, 0].getD (16 - e.total % 16) 0 ∧
    e.templatePad.pc.short = 16 - e.total % 16 ∧ e.templatePad.pc.padcnt = 0 ∧
    e.templatePad.pc.tidx = [0, 1, 18, 3, 20, 5, 22, 7, 24, 9, 26, 11, 28, 13, 30, 15, 0].getD (16 - e.total % 16) 0 % 17 ∧
    e.templatePad = { e with
      out := e.templatePad.out, total := e.templatePad.total, csize := e.templatePad.total, pc := e.templatePad.pc
      state := .done }

/-- 42_padding_controller.md R124: a step that pads leaves ENC done with an output whose length is a multiple of 16. That the
same step performs `ENC.DONE` (R115, R125, R126), so that ENC is `Done` and `CSIZE` written after it, is the model's reading,
log 19. -/
def Obligations.PaddedOutputIsAligned : Prop :=
  ∀ s : State, s.Inv → s.start = false → (s.enc.state = .zeroPad ∨ s.enc.state = .templatePad) →
    ∃ t, step s = .next t ∧ t.enc.state = .done ∧ t.enc.out.length % 16 = 0 ∧ t.enc.csize = t.enc.out.length

/-- 42_padding_controller.md R125: when a step brings ENC to `Done` the size report is the number of bytes in `OUT`, padding
and filler included. -/
def Obligations.SizeReportCountsEveryByte : Prop :=
  ∀ s t : State, s.Inv → s.enc.running = true → step s = .next t → t.enc.state = .done →
    t.enc.csize = t.enc.total ∧ t.enc.csize = t.enc.out.length

/-! ## Whole runs -/

/-- 45_reference_functions.md R177 with R175: an ENC run that has been started comes to `Done` with `encode` of its input in
`OUT` and its length in `CSIZE`. -/
def Obligations.EncRunComputesEncode : Prop :=
  ∀ s : State, s.encStarted →
    ∃ (n : Nat) (t : State), Host.Core.run Sys2Proof.core n s = .next t ∧
      t.encResult = some (Ref.encodeStream s.enc.input s.padMode Config.lookaheadCap,
        (Ref.encodeStream s.enc.input s.padMode Config.lookaheadCap).length)

/-- 45_reference_functions.md R177 with R176, 43_token_parser.md R143: a DEC run that is started comes to `Done` with
`decodeLimited` of its stream in `OUT`. -/
def Obligations.DecRunComputesDecode : Prop :=
  ∀ s : State, s.decStarting →
    ∃ (n : Nat) (t : State), Host.Core.run Sys2Proof.core n s = .next t ∧
      t.decResult = some (Ref.decodeLimited s.dec.src s.outLimit)

/-- 45_reference_functions.md R178: what ENC makes of an input DEC turns back into it: as it stands in `noPad` and
`exactPad`, and cut to the input's length, by OUT_LIMIT, in every mode; in `default` mode without a limit zero bytes
follow it. -/
def Obligations.RoundTripRestoresTheInput : Prop :=
  ∀ s : State, s.encStarted →
    ∃ (n : Nat) (t : State), Host.Core.run Sys2Proof.core n s = .next t ∧ t.enc.state = .done ∧
      ∀ u : State, u.decStarting → u.dec.src = t.enc.out →
        ((u.outLimit = some s.enc.len ∨ (u.outLimit = none ∧ s.padMode ≠ .default)) →
          ∃ (m : Nat) (v : State), Host.Core.run Sys2Proof.core m u = .next v ∧ v.decResult = some s.enc.input) ∧
        (u.outLimit = none → s.padMode = .default →
          ∃ (m j : Nat) (v : State), Host.Core.run Sys2Proof.core m u = .next v ∧
            v.decResult = some (s.enc.input ++ List.replicate j 0x00#8))

/-- 45_reference_functions.md R184, 60_exceptions.md R202, 43_token_parser.md R143: a stream cut anywhere decodes to a prefix
of what the whole stream gives, and a run with a limit to the bytes that the run without one produces first.
43_token_parser.md R146, 93_implementation_defined.md U1: flag bits left over when the stream ends do not matter. Where a run
comes to fetch the flag byte `f` of its last group, and the group's first `j` items reach to the end of the stream, a flag byte
`g` that agrees with `f` on those items' bits gives the same `OUT`, with or without a limit. -/
def Obligations.CutStreamsAndLimitsGivePrefixes : Prop :=
  (∀ s u : State, s.decStarting → u.decStarting → s.outLimit = none →
    (∀ rest : Bytes, u.outLimit = none → u.dec.src = s.dec.src ++ rest →
      ∃ (n m : Nat) (t v : State) (o1 o2 : Bytes), Host.Core.run Sys2Proof.core n s = .next t ∧
        Host.Core.run Sys2Proof.core m u = .next v ∧ t.decResult = some o1 ∧ v.decResult = some o2 ∧ o1 <+: o2) ∧
    (∀ k : Nat, u.outLimit = some k → u.dec.src = s.dec.src →
      ∃ (n m : Nat) (t v : State) (o : Bytes), Host.Core.run Sys2Proof.core n s = .next t ∧
        Host.Core.run Sys2Proof.core m u = .next v ∧ t.decResult = some o ∧ v.decResult = some (o.take k))) ∧
  (∀ (s u : State) (pre post : Bytes) (f g : Byte) (j k : Nat) (r : State), s.decStarting → u.decStarting →
    s.outLimit = u.outLimit → s.dec.src = pre ++ f :: post → u.dec.src = pre ++ g :: post →
    Host.Core.run Sys2Proof.core k s = .next r → r.dec.state = .readFlagByte → r.dec.ipos = pre.length →
    j ≤ 8 → post.length ≤ firstItemsBytes f j →
    (∀ i, i < j → f.getLsbD (7 - i) = g.getLsbD (7 - i)) →
    ∃ (n m : Nat) (t v : State) (o : Bytes), Host.Core.run Sys2Proof.core n s = .next t ∧
      Host.Core.run Sys2Proof.core m u = .next v ∧ t.decResult = some o ∧ v.decResult = some o)

/-- 70_reset_and_hazards.md R240: every run comes to `Done`, ENC within `L + 4` steps of its start, DEC within
`2 * len(SRC) + 3`, and DEC's output has at most `63 * len(SRC) / 2` bytes. -/
def Obligations.EveryRunReachesDone : Prop :=
  (∀ s : State, s.encStarted → ∃ (n : Nat) (t : State), n ≤ s.enc.len + 4 ∧
    Host.Core.run Sys2Proof.core n s = .next t ∧ t.enc.state = .done) ∧
  (∀ s : State, s.decStarting → ∃ (n : Nat) (t : State), n ≤ 2 * s.dec.src.length + 3 ∧
    Host.Core.run Sys2Proof.core n s = .next t ∧ t.dec.state = .done ∧ 2 * t.dec.out.length ≤ 63 * s.dec.src.length)
end

