-- ==== Sys2Proof/Laws/Config.lean ====
section
/-! SUPPORT. Sys2Proof/Laws/Config.lean: the constants as numerals, for simp and omega. -/

namespace Sys2Proof.Config

@[simp] theorem windowSize_eq : windowSize = 1023 := rfl
@[simp] theorem minMatch_eq : minMatch = 3 := rfl
@[simp] theorem maxMatch_eq : maxMatch = 63 := rfl
@[simp] theorem tokenBytes_eq : tokenBytes = 2 := rfl
@[simp] theorem group_eq : group = 8 := rfl
@[simp] theorem minOffset_eq : minOffset = 3 := rfl
@[simp] theorem align_eq : align = 16 := rfl
@[simp] theorem itemsSize_eq : itemsSize = 16 := rfl
@[simp] theorem windowFill_eq : windowFill = 0x11#8 := rfl

/-- `LOOKAHEAD_CAP >= 63` (00_scope.md R6). -/
theorem lookaheadCap_ge : 63 ≤ lookaheadCap := by unfold lookaheadCap; omega

end Sys2Proof.Config
end

