-- ==== Sys2Proof/Laws/Memory.lean ====
section
/-! SUPPORT. Sys2Proof/Laws/Memory.lean: a read after a write, the canonical form, and memories written out. -/

namespace Sys2Proof.Machine.Memory

variable {d v : Byte} {size x y : Nat} {m : Memory}

@[simp] theorem read_nil (d : Byte) (x : Nat) : Memory.read d [] x = d := rfl

/-- An index below every listed one reads as an unlisted index does. -/
theorem read_of_lt_all (h : ∀ c ∈ m, x < c.1) : Memory.read d m x = d := by
  induction m with
  | nil => rfl
  | cons c m ih =>
    obtain ⟨a, b⟩ := c
    have ha : x < a := h (a, b) (by simp)
    simp only [Memory.read, if_neg (by omega : ¬ a = x)]
    exact ih fun c hc => h c (by simp [hc])

/-- What a write leaves at any index of a memory whose indices rise. -/
theorem read_write (hs : m.Pairwise fun c e => c.1 < e.1) :
    Memory.read d (Memory.write d m x v) y = if y = x then v else Memory.read d m y := by
  induction m with
  | nil =>
    by_cases hv : v = d <;> by_cases hy : y = x <;>
      simp [Memory.write, Memory.read, hv, hy, show x = y ↔ y = x from eq_comm]
  | cons c m ih =>
    obtain ⟨a, b⟩ := c
    obtain ⟨hlt, hs⟩ := List.pairwise_cons.1 hs
    have below {z : Nat} (hz : z ≤ a) : Memory.read d m z = d :=
      read_of_lt_all fun c hc => by have := hlt c hc; simp only at this; omega
    simp only [Memory.write]
    by_cases h1 : x < a
    · by_cases hv : v = d
      · by_cases hy : y = x
        · subst hy; simp [h1, hv, Memory.read, below h1.le, show ¬ a = y by omega]
        · simp [h1, hv, hy]
      · by_cases hy : y = x
        · simp [h1, hv, hy, Memory.read]
        · simp [h1, hv, hy, Memory.read, Ne.symm hy]
    · by_cases h2 : x = a
      · subst h2
        by_cases hv : v = d
        · by_cases hy : y = x
          · subst hy; simp [hv, below le_rfl]
          · simp [hv, hy, Memory.read, Ne.symm hy]
        · by_cases hy : y = x
          · simp [hv, hy, Memory.read]
          · simp [hv, hy, Memory.read, Ne.symm hy]
      · by_cases hy : y = a
        · subst hy; simp [h1, h2, Memory.read, Ne.symm h2]
        · simp [h1, h2, Memory.read, Ne.symm hy, ih hs]

theorem read_write_same (h : Memory.wf d size m) : Memory.read d (Memory.write d m x v) x = v := by
  simp [read_write h.1]

theorem read_write_other (h : Memory.wf d size m) (hy : y ≠ x) :
    Memory.read d (Memory.write d m x v) y = Memory.read d m y := by
  simp [read_write h.1, hy]

/-- Every entry after a write is the written one or an old one. -/
theorem mem_write {c : Host.Cell} (hc : c ∈ Memory.write d m x v) : (c = (x, v) ∧ v ≠ d) ∨ c ∈ m := by
  induction m with
  | nil =>
    by_cases hv : v = d
    · simp [Memory.write, hv] at hc
    · simp [Memory.write, hv] at hc; exact .inl ⟨hc, hv⟩
  | cons e m ih =>
    obtain ⟨a, b⟩ := e
    simp only [Memory.write] at hc
    split at hc
    · split at hc
      · exact .inr hc
      · rcases List.mem_cons.1 hc with rfl | h
        · exact .inl ⟨rfl, ‹_›⟩
        · exact .inr h
    · split at hc
      · split at hc
        · exact .inr (by simp [hc])
        · rcases List.mem_cons.1 hc with rfl | h
          · exact .inl ⟨rfl, ‹_›⟩
          · exact .inr (by simp [h])
      · rcases List.mem_cons.1 hc with rfl | h
        · exact .inr (by simp)
        · exact (ih h).imp id fun h => by simp [h]

/-- A write inside the memory keeps the canonical form. -/
theorem write_wf (h : Memory.wf d size m) (hx : x < size) : Memory.wf d size (Memory.write d m x v) := by
  refine ⟨?_, fun c hc => ?_⟩
  · have hs := h.1
    clear h
    induction m with
    | nil => by_cases hv : v = d <;> simp [Memory.write, hv]
    | cons c m ih =>
      obtain ⟨a, b⟩ := c
      obtain ⟨hlt, hs'⟩ := List.pairwise_cons.1 hs
      simp only [Memory.write]
      split
      · split
        · exact hs
        · refine List.pairwise_cons.2 ⟨fun c hc => ?_, hs⟩
          rcases List.mem_cons.1 hc with rfl | hc
          · simpa
          · have := hlt c hc; dsimp only at this ⊢; omega
      · split
        · split
          · exact hs'
          · exact List.pairwise_cons.2 ⟨fun c hc => by have := hlt c hc; dsimp only at this ⊢; omega, hs'⟩
        · refine List.pairwise_cons.2 ⟨fun c hc => ?_, ih hs'⟩
          rcases mem_write hc with ⟨rfl, -⟩ | hc
          · simp only; omega
          · exact hlt c hc
  · rcases mem_write hc with ⟨rfl, hv⟩ | hc
    · exact ⟨hv, hx⟩
    · exact h.2 c hc

theorem nil_wf (d : Byte) (size : Nat) : Memory.wf d size [] := ⟨List.Pairwise.nil, by simp⟩

/-- The entries of a memory written out from index `i` on. -/
theorem mem_ofBytes {bs : Bytes} {i : Nat} {c : Host.Cell} (hc : c ∈ Memory.ofBytes d i bs) :
    c.2 ≠ d ∧ i ≤ c.1 ∧ c.1 < i + bs.length := by
  induction bs generalizing i with
  | nil => simp [Memory.ofBytes] at hc
  | cons b bs ih =>
    simp only [Memory.ofBytes] at hc
    split at hc
    · obtain ⟨h1, h2, h3⟩ := ih hc; simp only [List.length_cons]; exact ⟨h1, by omega, by omega⟩
    · rcases List.mem_cons.1 hc with rfl | hc
      · simp only [List.length_cons]; exact ⟨‹_›, by omega, by omega⟩
      · obtain ⟨h1, h2, h3⟩ := ih hc; simp only [List.length_cons]; exact ⟨h1, by omega, by omega⟩

/-- A memory written out is in canonical form. -/
theorem ofBytes_wf (d : Byte) (bs : Bytes) : Memory.wf d bs.length (Memory.ofBytes d 0 bs) := by
  refine ⟨?_, fun c hc => by obtain ⟨h1, -, h3⟩ := mem_ofBytes hc; exact ⟨h1, by omega⟩⟩
  generalize 0 = i
  induction bs generalizing i with
  | nil => simp [Memory.ofBytes]
  | cons b bs ih =>
    simp only [Memory.ofBytes]
    split
    · exact ih _
    · exact List.pairwise_cons.2 ⟨fun c hc => by have := (mem_ofBytes hc).2.1; omega, ih _⟩

/-- What a memory written out from index `i` on holds at `i + k`. -/
theorem read_ofBytes (d : Byte) (bs : Bytes) (i k : Nat) :
    Memory.read d (Memory.ofBytes d i bs) (i + k) = bs.getD k d := by
  induction bs generalizing i k with
  | nil => simp [Memory.ofBytes]
  | cons b bs ih =>
    cases k with
    | zero =>
      by_cases hb : b = d
      · simp only [Memory.ofBytes, hb, if_true, Nat.add_zero, List.getD_cons_zero]
        exact read_of_lt_all fun c hc => by have := mem_ofBytes hc; omega
      · simp [Memory.ofBytes, hb, Memory.read]
    | succ k =>
      have h := ih (i + 1) k
      rw [show i + 1 + k = i + (k + 1) by omega] at h
      by_cases hb : b = d <;> simp [Memory.ofBytes, hb, Memory.read, h]

@[simp] theorem length_bytes (d : Byte) (m : Memory) (i n : Nat) : (Memory.bytes d m i n).length = n := by
  induction n generalizing i with
  | zero => rfl
  | succ n ih => simp [Memory.bytes, ih]

/-- A memory read out, byte by byte. -/
theorem getElem?_bytes (d : Byte) (m : Memory) (i n k : Nat) :
    (Memory.bytes d m i n)[k]? = if k < n then some (Memory.read d m (i + k)) else none := by
  induction n generalizing i k with
  | zero => simp [Memory.bytes]
  | succ n ih =>
    cases k with
    | zero => simp [Memory.bytes]
    | succ k => simp [Memory.bytes, ih, show i + 1 + k = i + (k + 1) by omega]

/-- Writing a byte sequence out and reading it back. -/
theorem bytes_ofBytes (d : Byte) (bs : Bytes) : Memory.bytes d (Memory.ofBytes d 0 bs) 0 bs.length = bs := by
  apply List.ext_getElem?
  intro k
  have h := read_ofBytes d bs 0 k
  rw [getElem?_bytes]
  split <;> rename_i hk
  · rw [h]; simp [hk]
  · simp [List.getElem?_eq_none (not_lt.1 hk)]

/-- Reading out the bytes below an index that is then written. -/
theorem bytes_write_of_le (h : Memory.wf d size m) {i n : Nat} (hx : i + n ≤ x) :
    Memory.bytes d (Memory.write d m x v) i n = Memory.bytes d m i n := by
  apply List.ext_getElem?
  intro k
  simp only [getElem?_bytes]
  split
  · rw [read_write_other h (by omega)]
  · rfl

theorem bytes_succ (d : Byte) (m : Memory) (i n : Nat) :
    Memory.bytes d m i (n + 1) = Memory.bytes d m i n ++ [Memory.read d m (i + n)] := by
  induction n generalizing i with
  | zero => simp [Memory.bytes]
  | succ n ih => rw [Memory.bytes, ih (i + 1), Memory.bytes, show i + 1 + n = i + (n + 1) by omega]; rfl

/-- The loop of DEC.START, `for i in 0 .. n - 1: MemWrite(WIN, i, 1, 0x11)` (43_token_parser.md R136). -/
def fill (d : Byte) : Nat → Memory → Memory
  | 0, m => m
  | n + 1, m => Memory.write d (fill d n m) n d

theorem mem_fill {n : Nat} {c : Host.Cell} (hm : Memory.wf d size m) (hn : n ≤ size) :
    Memory.wf d size (fill d n m) ∧ (c ∈ fill d n m → n ≤ c.1) := by
  induction n generalizing c with
  | zero => exact ⟨hm, fun _ => Nat.zero_le _⟩
  | succ n ih =>
    have hw := (ih (c := c) (by omega)).1
    refine ⟨write_wf hw (by omega), fun hc => ?_⟩
    rcases mem_write hc with ⟨-, h⟩ | hc'
    · exact absurd rfl h
    have hle := (ih (c := c) (by omega)).2 hc'
    rcases Nat.lt_or_eq_of_le hle with h | h
    · exact h
    · exfalso
      have h1 : Memory.read d (fill d (n + 1) m) n = d := by
        rw [fill, read_write hw.1]; simp
      have key : ∀ (l : Memory), l.Pairwise (fun c e => c.1 < e.1) → c ∈ l → Memory.read d l c.1 = c.2 := by
        intro l hl hcl
        induction l with
        | nil => simp at hcl
        | cons e l ihl =>
          obtain ⟨hlt, hl⟩ := List.pairwise_cons.1 hl
          rcases List.mem_cons.1 hcl with rfl | hcl
          · simp [Memory.read]
          · have := hlt c hcl
            rw [Memory.read, if_neg (by omega), ihl hl hcl]
      have hwf := write_wf (v := d) hw (show n < size by omega)
      have h2 := key _ hwf.1 hc
      rw [← h] at h2
      exact (hwf.2 c hc).1 (h2.symm.trans h1)

/-- The start's fill loop over a whole window in canonical form leaves the memory that lists nothing, which is what
`Dec.startRun` writes. -/
theorem fill_eq_nil (hm : Memory.wf d size m) : fill d size m = [] := by
  cases h : fill d size m with
  | nil => rfl
  | cons c l =>
    have h1 := mem_fill (c := c) hm le_rfl
    have h2 := h1.2 (by simp [h])
    have h3 := (h1.1.2 c (by simp [h])).2
    omega

end Sys2Proof.Machine.Memory

namespace Sys2Proof.Machine

/-- All that `MemRead` answers: the byte, in range; the named fault, out of it. -/
theorem memRead_cases (sp : Space) (size : Nat) (m : Memory) (a : Nat) :
    (a < size ∧ memRead sp size m a = .ok (m.read sp.unlisted a)) ∨
    (size ≤ a ∧ memRead sp size m a = .error (.indexOutOfRange sp a)) := by
  by_cases h : a < size
  · exact .inl ⟨h, if_pos h⟩
  · exact .inr ⟨Nat.not_lt.1 h, if_neg h⟩

/-- `MemWrite` keeps the canonical form of every space. -/
theorem memWrite_wf {sp : Space} {size a : Nat} {m m' : Memory} {v : Byte} (hm : Memory.wf sp.unlisted size m)
    (h : memWrite sp size m a v = .ok m') : Memory.wf sp.unlisted size m' := by
  unfold memWrite at h
  split at h
  · cases h; exact Memory.write_wf hm ‹_›
  · cases h

/-- So does a write to `ITEMS`. -/
theorem Enc.writeItem_wf {e e' : Enc} {a : Nat} {v : Byte}
    (hm : Memory.wf Space.items.unlisted Config.itemsSize e.tp.items) (h : e.writeItem a v = .ok e') :
    Memory.wf Space.items.unlisted Config.itemsSize e'.tp.items := by
  unfold Enc.writeItem at h
  split at h
  · cases h; exact memWrite_wf hm ‹_›
  · cases h

/-- So does a write to `WIN`. -/
theorem Dec.writeWin_wf {d d' : Dec} {a : Nat} {v : Byte}
    (hm : Memory.wf Space.win.unlisted Config.windowSize d.win) (h : d.writeWin a v = .ok d') :
    Memory.wf Space.win.unlisted Config.windowSize d'.win := by
  unfold Dec.writeWin at h
  split at h
  · cases h; exact memWrite_wf hm ‹_›
  · cases h

/-- The host's load of `IN` gives a memory in canonical form, with the bytes loaded. -/
theorem hostLoadIn_spec {s t : State} {bs : Bytes} (h : hostLoadIn bs s = .next t) :
    Memory.wf Space.inp.unlisted t.enc.len t.enc.inMem ∧ t.enc.input = bs := by
  unfold hostLoadIn at h
  split at h
  · cases h
  · cases h; exact ⟨Memory.ofBytes_wf _ bs, Memory.bytes_ofBytes _ bs⟩

end Sys2Proof.Machine
end

