-- ==== Sys2Proof/Laws/State.lean ====
section
/-! SUPPORT. Sys2Proof/Laws/State.lean: what each named update leaves in each field, so that no later proof unfolds a
record update. -/

namespace Sys2Proof.Machine

/-! ## DEC -/

@[simp] theorem Dec.emit_state (d : Dec) (v : Byte) : (d.emit v).state = d.state := rfl
@[simp] theorem Dec.emit_src (d : Dec) (v : Byte) : (d.emit v).src = d.src := rfl
@[simp] theorem Dec.emit_ipos (d : Dec) (v : Byte) : (d.emit v).ipos = d.ipos := rfl
@[simp] theorem Dec.emit_flg (d : Dec) (v : Byte) : (d.emit v).flg = d.flg := rfl
@[simp] theorem Dec.emit_fcnt (d : Dec) (v : Byte) : (d.emit v).fcnt = d.fcnt := rfl
@[simp] theorem Dec.emit_win (d : Dec) (v : Byte) : (d.emit v).win = d.win := rfl
@[simp] theorem Dec.emit_cur (d : Dec) (v : Byte) : (d.emit v).cur = d.cur := rfl
@[simp] theorem Dec.emit_b1 (d : Dec) (v : Byte) : (d.emit v).b1 = d.b1 := rfl
@[simp] theorem Dec.emit_off (d : Dec) (v : Byte) : (d.emit v).off = d.off := rfl
@[simp] theorem Dec.emit_len (d : Dec) (v : Byte) : (d.emit v).len = d.len := rfl
@[simp] theorem Dec.emit_srcp (d : Dec) (v : Byte) : (d.emit v).srcp = d.srcp := rfl
@[simp] theorem Dec.emit_dstp (d : Dec) (v : Byte) : (d.emit v).dstp = d.dstp := rfl
@[simp] theorem Dec.emit_rem (d : Dec) (v : Byte) : (d.emit v).rem = d.rem := rfl
@[simp] theorem Dec.emit_stg (d : Dec) (v : Byte) : (d.emit v).stg = d.stg := rfl
@[simp] theorem Dec.emit_out (d : Dec) (v : Byte) : (d.emit v).out = d.out ++ [v] := rfl
@[simp] theorem Dec.emit_ocnt (d : Dec) (v : Byte) : (d.emit v).ocnt = d.ocnt + 1 := rfl

@[simp] theorem Dec.stop_state (d : Dec) : d.stop.state = .done := rfl
@[simp] theorem Dec.stop_src (d : Dec) : d.stop.src = d.src := rfl
@[simp] theorem Dec.stop_ipos (d : Dec) : d.stop.ipos = d.ipos := rfl
@[simp] theorem Dec.stop_flg (d : Dec) : d.stop.flg = d.flg := rfl
@[simp] theorem Dec.stop_fcnt (d : Dec) : d.stop.fcnt = d.fcnt := rfl
@[simp] theorem Dec.stop_win (d : Dec) : d.stop.win = d.win := rfl
@[simp] theorem Dec.stop_cur (d : Dec) : d.stop.cur = d.cur := rfl
@[simp] theorem Dec.stop_b1 (d : Dec) : d.stop.b1 = d.b1 := rfl
@[simp] theorem Dec.stop_off (d : Dec) : d.stop.off = d.off := rfl
@[simp] theorem Dec.stop_len (d : Dec) : d.stop.len = d.len := rfl
@[simp] theorem Dec.stop_srcp (d : Dec) : d.stop.srcp = d.srcp := rfl
@[simp] theorem Dec.stop_dstp (d : Dec) : d.stop.dstp = d.dstp := rfl
@[simp] theorem Dec.stop_rem (d : Dec) : d.stop.rem = d.rem := rfl
@[simp] theorem Dec.stop_stg (d : Dec) : d.stop.stg = d.stg := rfl
@[simp] theorem Dec.stop_out (d : Dec) : d.stop.out = d.out := rfl
@[simp] theorem Dec.stop_ocnt (d : Dec) : d.stop.ocnt = d.ocnt := rfl

@[simp] theorem Dec.latch_state (d : Dec) (o : BitVec 10) (l : BitVec 6) : (d.latch o l).state = d.state := rfl
@[simp] theorem Dec.latch_src (d : Dec) (o : BitVec 10) (l : BitVec 6) : (d.latch o l).src = d.src := rfl
@[simp] theorem Dec.latch_ipos (d : Dec) (o : BitVec 10) (l : BitVec 6) : (d.latch o l).ipos = d.ipos := rfl
@[simp] theorem Dec.latch_flg (d : Dec) (o : BitVec 10) (l : BitVec 6) : (d.latch o l).flg = d.flg := rfl
@[simp] theorem Dec.latch_fcnt (d : Dec) (o : BitVec 10) (l : BitVec 6) : (d.latch o l).fcnt = d.fcnt := rfl
@[simp] theorem Dec.latch_win (d : Dec) (o : BitVec 10) (l : BitVec 6) : (d.latch o l).win = d.win := rfl
@[simp] theorem Dec.latch_cur (d : Dec) (o : BitVec 10) (l : BitVec 6) : (d.latch o l).cur = d.cur := rfl
@[simp] theorem Dec.latch_b1 (d : Dec) (o : BitVec 10) (l : BitVec 6) : (d.latch o l).b1 = d.b1 := rfl
@[simp] theorem Dec.latch_off (d : Dec) (o : BitVec 10) (l : BitVec 6) : (d.latch o l).off = o := rfl
@[simp] theorem Dec.latch_len (d : Dec) (o : BitVec 10) (l : BitVec 6) : (d.latch o l).len = l := rfl
@[simp] theorem Dec.latch_srcp (d : Dec) (o : BitVec 10) (l : BitVec 6) : (d.latch o l).srcp = d.srcp := rfl
@[simp] theorem Dec.latch_dstp (d : Dec) (o : BitVec 10) (l : BitVec 6) : (d.latch o l).dstp = d.dstp := rfl
@[simp] theorem Dec.latch_rem (d : Dec) (o : BitVec 10) (l : BitVec 6) : (d.latch o l).rem = d.rem := rfl
@[simp] theorem Dec.latch_stg (d : Dec) (o : BitVec 10) (l : BitVec 6) : (d.latch o l).stg = d.stg := rfl
@[simp] theorem Dec.latch_out (d : Dec) (o : BitVec 10) (l : BitVec 6) : (d.latch o l).out = d.out := rfl
@[simp] theorem Dec.latch_ocnt (d : Dec) (o : BitVec 10) (l : BitVec 6) : (d.latch o l).ocnt = d.ocnt := rfl

@[simp] theorem Dec.wrNop_state (d : Dec) : d.wrNop.state = .dispatch := rfl
@[simp] theorem Dec.wrNop_src (d : Dec) : d.wrNop.src = d.src := rfl
@[simp] theorem Dec.wrNop_ipos (d : Dec) : d.wrNop.ipos = d.ipos := rfl
@[simp] theorem Dec.wrNop_flg (d : Dec) : d.wrNop.flg = d.flg := rfl
@[simp] theorem Dec.wrNop_fcnt (d : Dec) : d.wrNop.fcnt = d.fcnt := rfl
@[simp] theorem Dec.wrNop_win (d : Dec) : d.wrNop.win = d.win := rfl
@[simp] theorem Dec.wrNop_cur (d : Dec) : d.wrNop.cur = d.cur := rfl
@[simp] theorem Dec.wrNop_b1 (d : Dec) : d.wrNop.b1 = d.b1 := rfl
@[simp] theorem Dec.wrNop_off (d : Dec) : d.wrNop.off = d.off := rfl
@[simp] theorem Dec.wrNop_len (d : Dec) : d.wrNop.len = d.len := rfl
@[simp] theorem Dec.wrNop_srcp (d : Dec) : d.wrNop.srcp = d.srcp := rfl
@[simp] theorem Dec.wrNop_dstp (d : Dec) : d.wrNop.dstp = d.dstp := rfl
@[simp] theorem Dec.wrNop_rem (d : Dec) : d.wrNop.rem = d.rem := rfl
@[simp] theorem Dec.wrNop_stg (d : Dec) : d.wrNop.stg = d.stg := rfl
@[simp] theorem Dec.wrNop_out (d : Dec) : d.wrNop.out = d.out := rfl
@[simp] theorem Dec.wrNop_ocnt (d : Dec) : d.wrNop.ocnt = d.ocnt := rfl

@[simp] theorem Dec.copyStart_state (d : Dec) : d.copyStart.state = .copy := rfl
@[simp] theorem Dec.copyStart_src (d : Dec) : d.copyStart.src = d.src := rfl
@[simp] theorem Dec.copyStart_ipos (d : Dec) : d.copyStart.ipos = d.ipos := rfl
@[simp] theorem Dec.copyStart_flg (d : Dec) : d.copyStart.flg = d.flg := rfl
@[simp] theorem Dec.copyStart_fcnt (d : Dec) : d.copyStart.fcnt = d.fcnt := rfl
@[simp] theorem Dec.copyStart_win (d : Dec) : d.copyStart.win = d.win := rfl
@[simp] theorem Dec.copyStart_cur (d : Dec) : d.copyStart.cur = d.cur := rfl
@[simp] theorem Dec.copyStart_b1 (d : Dec) : d.copyStart.b1 = d.b1 := rfl
@[simp] theorem Dec.copyStart_off (d : Dec) : d.copyStart.off = d.off := rfl
@[simp] theorem Dec.copyStart_len (d : Dec) : d.copyStart.len = d.len := rfl
@[simp] theorem Dec.copyStart_srcp (d : Dec) : d.copyStart.srcp = windowSlot d.cur d.off.toNat := rfl
@[simp] theorem Dec.copyStart_dstp (d : Dec) : d.copyStart.dstp = d.cur := rfl
@[simp] theorem Dec.copyStart_rem (d : Dec) : d.copyStart.rem = d.len.toNat := rfl
@[simp] theorem Dec.copyStart_stg (d : Dec) : d.copyStart.stg = d.stg := rfl
@[simp] theorem Dec.copyStart_out (d : Dec) : d.copyStart.out = d.out := rfl
@[simp] theorem Dec.copyStart_ocnt (d : Dec) : d.copyStart.ocnt = d.ocnt := rfl

@[simp] theorem Dec.copyEnd_state (d : Dec) : d.copyEnd.state = .dispatch := rfl
@[simp] theorem Dec.copyEnd_src (d : Dec) : d.copyEnd.src = d.src := rfl
@[simp] theorem Dec.copyEnd_ipos (d : Dec) : d.copyEnd.ipos = d.ipos := rfl
@[simp] theorem Dec.copyEnd_flg (d : Dec) : d.copyEnd.flg = d.flg := rfl
@[simp] theorem Dec.copyEnd_fcnt (d : Dec) : d.copyEnd.fcnt = d.fcnt := rfl
@[simp] theorem Dec.copyEnd_win (d : Dec) : d.copyEnd.win = d.win := rfl
@[simp] theorem Dec.copyEnd_cur (d : Dec) : d.copyEnd.cur = windowAdvance d.cur d.len.toNat := rfl
@[simp] theorem Dec.copyEnd_b1 (d : Dec) : d.copyEnd.b1 = d.b1 := rfl
@[simp] theorem Dec.copyEnd_off (d : Dec) : d.copyEnd.off = d.off := rfl
@[simp] theorem Dec.copyEnd_len (d : Dec) : d.copyEnd.len = d.len := rfl
@[simp] theorem Dec.copyEnd_srcp (d : Dec) : d.copyEnd.srcp = d.srcp := rfl
@[simp] theorem Dec.copyEnd_dstp (d : Dec) : d.copyEnd.dstp = d.dstp := rfl
@[simp] theorem Dec.copyEnd_rem (d : Dec) : d.copyEnd.rem = d.rem := rfl
@[simp] theorem Dec.copyEnd_stg (d : Dec) : d.copyEnd.stg = d.stg := rfl
@[simp] theorem Dec.copyEnd_out (d : Dec) : d.copyEnd.out = d.out := rfl
@[simp] theorem Dec.copyEnd_ocnt (d : Dec) : d.copyEnd.ocnt = d.ocnt := rfl

@[simp] theorem Dec.loadFlags_state (d : Dec) (f : Byte) : (d.loadFlags f).state = .dispatch := rfl
@[simp] theorem Dec.loadFlags_src (d : Dec) (f : Byte) : (d.loadFlags f).src = d.src := rfl
@[simp] theorem Dec.loadFlags_ipos (d : Dec) (f : Byte) : (d.loadFlags f).ipos = d.ipos := rfl
@[simp] theorem Dec.loadFlags_flg (d : Dec) (f : Byte) : (d.loadFlags f).flg = f := rfl
@[simp] theorem Dec.loadFlags_fcnt (d : Dec) (f : Byte) : (d.loadFlags f).fcnt = 8 := rfl
@[simp] theorem Dec.loadFlags_win (d : Dec) (f : Byte) : (d.loadFlags f).win = d.win := rfl
@[simp] theorem Dec.loadFlags_cur (d : Dec) (f : Byte) : (d.loadFlags f).cur = d.cur := rfl
@[simp] theorem Dec.loadFlags_b1 (d : Dec) (f : Byte) : (d.loadFlags f).b1 = d.b1 := rfl
@[simp] theorem Dec.loadFlags_off (d : Dec) (f : Byte) : (d.loadFlags f).off = d.off := rfl
@[simp] theorem Dec.loadFlags_len (d : Dec) (f : Byte) : (d.loadFlags f).len = d.len := rfl
@[simp] theorem Dec.loadFlags_srcp (d : Dec) (f : Byte) : (d.loadFlags f).srcp = d.srcp := rfl
@[simp] theorem Dec.loadFlags_dstp (d : Dec) (f : Byte) : (d.loadFlags f).dstp = d.dstp := rfl
@[simp] theorem Dec.loadFlags_rem (d : Dec) (f : Byte) : (d.loadFlags f).rem = d.rem := rfl
@[simp] theorem Dec.loadFlags_stg (d : Dec) (f : Byte) : (d.loadFlags f).stg = d.stg := rfl
@[simp] theorem Dec.loadFlags_out (d : Dec) (f : Byte) : (d.loadFlags f).out = d.out := rfl
@[simp] theorem Dec.loadFlags_ocnt (d : Dec) (f : Byte) : (d.loadFlags f).ocnt = d.ocnt := rfl

@[simp] theorem Dec.startRun_state (d : Dec) (lim : Option Nat) : (d.startRun lim).state = if lim = some 0 then .done else .readFlagByte := rfl
@[simp] theorem Dec.startRun_src (d : Dec) (lim : Option Nat) : (d.startRun lim).src = d.src := rfl
@[simp] theorem Dec.startRun_ipos (d : Dec) (lim : Option Nat) : (d.startRun lim).ipos = 0 := rfl
@[simp] theorem Dec.startRun_flg (d : Dec) (lim : Option Nat) : (d.startRun lim).flg = d.flg := rfl
@[simp] theorem Dec.startRun_fcnt (d : Dec) (lim : Option Nat) : (d.startRun lim).fcnt = 0 := rfl
@[simp] theorem Dec.startRun_win (d : Dec) (lim : Option Nat) : (d.startRun lim).win = [] := rfl
@[simp] theorem Dec.startRun_cur (d : Dec) (lim : Option Nat) : (d.startRun lim).cur = 0 := rfl
@[simp] theorem Dec.startRun_b1 (d : Dec) (lim : Option Nat) : (d.startRun lim).b1 = d.b1 := rfl
@[simp] theorem Dec.startRun_off (d : Dec) (lim : Option Nat) : (d.startRun lim).off = d.off := rfl
@[simp] theorem Dec.startRun_len (d : Dec) (lim : Option Nat) : (d.startRun lim).len = d.len := rfl
@[simp] theorem Dec.startRun_srcp (d : Dec) (lim : Option Nat) : (d.startRun lim).srcp = d.srcp := rfl
@[simp] theorem Dec.startRun_dstp (d : Dec) (lim : Option Nat) : (d.startRun lim).dstp = d.dstp := rfl
@[simp] theorem Dec.startRun_rem (d : Dec) (lim : Option Nat) : (d.startRun lim).rem = d.rem := rfl
@[simp] theorem Dec.startRun_stg (d : Dec) (lim : Option Nat) : (d.startRun lim).stg = d.stg := rfl
@[simp] theorem Dec.startRun_out (d : Dec) (lim : Option Nat) : (d.startRun lim).out = [] := rfl
@[simp] theorem Dec.startRun_ocnt (d : Dec) (lim : Option Nat) : (d.startRun lim).ocnt = 0 := rfl

/-! ## ENC -/

@[simp] theorem Enc.emit_state (e : Enc) (v : Byte) : (e.emit v).state = e.state := rfl
@[simp] theorem Enc.emit_inMem (e : Enc) (v : Byte) : (e.emit v).inMem = e.inMem := rfl
@[simp] theorem Enc.emit_len (e : Enc) (v : Byte) : (e.emit v).len = e.len := rfl
@[simp] theorem Enc.emit_p (e : Enc) (v : Byte) : (e.emit v).p = e.p := rfl
@[simp] theorem Enc.emit_mf (e : Enc) (v : Byte) : (e.emit v).mf = e.mf := rfl
@[simp] theorem Enc.emit_tp (e : Enc) (v : Byte) : (e.emit v).tp = e.tp := rfl
@[simp] theorem Enc.emit_pc (e : Enc) (v : Byte) : (e.emit v).pc = e.pc := rfl
@[simp] theorem Enc.emit_out (e : Enc) (v : Byte) : (e.emit v).out = e.out ++ [v] := rfl
@[simp] theorem Enc.emit_total (e : Enc) (v : Byte) : (e.emit v).total = e.total + 1 := rfl
@[simp] theorem Enc.emit_csize (e : Enc) (v : Byte) : (e.emit v).csize = e.csize := rfl

@[simp] theorem Enc.stop_state (e : Enc) : e.stop.state = .done := rfl
@[simp] theorem Enc.stop_inMem (e : Enc) : e.stop.inMem = e.inMem := rfl
@[simp] theorem Enc.stop_len (e : Enc) : e.stop.len = e.len := rfl
@[simp] theorem Enc.stop_p (e : Enc) : e.stop.p = e.p := rfl
@[simp] theorem Enc.stop_mf (e : Enc) : e.stop.mf = e.mf := rfl
@[simp] theorem Enc.stop_tp (e : Enc) : e.stop.tp = e.tp := rfl
@[simp] theorem Enc.stop_pc (e : Enc) : e.stop.pc = e.pc := rfl
@[simp] theorem Enc.stop_out (e : Enc) : e.stop.out = e.out := rfl
@[simp] theorem Enc.stop_total (e : Enc) : e.stop.total = e.total := rfl
@[simp] theorem Enc.stop_csize (e : Enc) : e.stop.csize = e.total := rfl

@[simp] theorem Enc.startRun_state (e : Enc) : e.startRun.state = .run := rfl
@[simp] theorem Enc.startRun_inMem (e : Enc) : e.startRun.inMem = e.inMem := rfl
@[simp] theorem Enc.startRun_len (e : Enc) : e.startRun.len = e.len := rfl
@[simp] theorem Enc.startRun_p (e : Enc) : e.startRun.p = 0 := rfl
@[simp] theorem Enc.startRun_mf (e : Enc) : e.startRun.mf = e.mf := rfl
@[simp] theorem Enc.startRun_tp (e : Enc) : e.startRun.tp = { e.tp with flags := 0x00#8, nitems := 0, nbytes := 0 } := rfl
@[simp] theorem Enc.startRun_pc (e : Enc) : e.startRun.pc = e.pc := rfl
@[simp] theorem Enc.startRun_out (e : Enc) : e.startRun.out = [] := rfl
@[simp] theorem Enc.startRun_total (e : Enc) : e.startRun.total = 0 := rfl
@[simp] theorem Enc.startRun_csize (e : Enc) : e.startRun.csize = e.csize := rfl

@[simp] theorem Enc.mfInit_state (e : Enc) : e.mfInit.state = e.state := rfl
@[simp] theorem Enc.mfInit_inMem (e : Enc) : e.mfInit.inMem = e.inMem := rfl
@[simp] theorem Enc.mfInit_len (e : Enc) : e.mfInit.len = e.len := rfl
@[simp] theorem Enc.mfInit_p (e : Enc) : e.mfInit.p = e.p := rfl
@[simp] theorem Enc.mfInit_mf (e : Enc) : e.mfInit.mf = { e.mf with remain := e.len - e.p, limit := min e.p 1023, besto := 0, bestl := 0, ofs := 3 } := rfl
@[simp] theorem Enc.mfInit_tp (e : Enc) : e.mfInit.tp = e.tp := rfl
@[simp] theorem Enc.mfInit_pc (e : Enc) : e.mfInit.pc = e.pc := rfl
@[simp] theorem Enc.mfInit_out (e : Enc) : e.mfInit.out = e.out := rfl
@[simp] theorem Enc.mfInit_total (e : Enc) : e.mfInit.total = e.total := rfl
@[simp] theorem Enc.mfInit_csize (e : Enc) : e.mfInit.csize = e.csize := rfl

@[simp] theorem Enc.mfClampExit_state (e : Enc) : e.mfClampExit.state = e.state := rfl
@[simp] theorem Enc.mfClampExit_inMem (e : Enc) : e.mfClampExit.inMem = e.inMem := rfl
@[simp] theorem Enc.mfClampExit_len (e : Enc) : e.mfClampExit.len = e.len := rfl
@[simp] theorem Enc.mfClampExit_p (e : Enc) : e.mfClampExit.p = e.p := rfl
@[simp] theorem Enc.mfClampExit_mf (e : Enc) : e.mfClampExit.mf = { e.mf with bestl := 63, besto := e.mf.ofs } := rfl
@[simp] theorem Enc.mfClampExit_tp (e : Enc) : e.mfClampExit.tp = e.tp := rfl
@[simp] theorem Enc.mfClampExit_pc (e : Enc) : e.mfClampExit.pc = e.pc := rfl
@[simp] theorem Enc.mfClampExit_out (e : Enc) : e.mfClampExit.out = e.out := rfl
@[simp] theorem Enc.mfClampExit_total (e : Enc) : e.mfClampExit.total = e.total := rfl
@[simp] theorem Enc.mfClampExit_csize (e : Enc) : e.mfClampExit.csize = e.csize := rfl

@[simp] theorem Enc.mfNext_state (e : Enc) : e.mfNext.state = e.state := rfl
@[simp] theorem Enc.mfNext_inMem (e : Enc) : e.mfNext.inMem = e.inMem := rfl
@[simp] theorem Enc.mfNext_len (e : Enc) : e.mfNext.len = e.len := rfl
@[simp] theorem Enc.mfNext_p (e : Enc) : e.mfNext.p = e.p := rfl
@[simp] theorem Enc.mfNext_mf (e : Enc) : e.mfNext.mf = { e.mf with ofs := e.mf.ofs + 1 } := rfl
@[simp] theorem Enc.mfNext_tp (e : Enc) : e.mfNext.tp = e.tp := rfl
@[simp] theorem Enc.mfNext_pc (e : Enc) : e.mfNext.pc = e.pc := rfl
@[simp] theorem Enc.mfNext_out (e : Enc) : e.mfNext.out = e.out := rfl
@[simp] theorem Enc.mfNext_total (e : Enc) : e.mfNext.total = e.total := rfl
@[simp] theorem Enc.mfNext_csize (e : Enc) : e.mfNext.csize = e.csize := rfl

/-! ## The two lifts -/

@[simp] theorem State.liftEnc_ok (s : State) (e : Enc) : s.liftEnc (.ok e) = .next { s with enc := e } := rfl
@[simp] theorem State.liftEnc_error (s : State) (f : Fault) : s.liftEnc (.error f) = .fault f := rfl
@[simp] theorem State.liftDec_ok (s : State) (d : Dec) : s.liftDec (.ok d) = .next { s with dec := d } := rfl
@[simp] theorem State.liftDec_error (s : State) (f : Fault) : s.liftDec (.error f) = .fault f := rfl

/-- A step lifted from ENC answers a next state exactly when ENC's own step does. -/
theorem State.liftEnc_eq_next {s t : State} {r : Except Fault Enc} :
    s.liftEnc r = .next t ↔ ∃ e, r = .ok e ∧ t = { s with enc := e } := by
  cases r <;> simp [eq_comm]

/-- A step lifted from DEC answers a next state exactly when DEC's own step does. -/
theorem State.liftDec_eq_next {s t : State} {r : Except Fault Dec} :
    s.liftDec r = .next t ↔ ∃ d, r = .ok d ∧ t = { s with dec := d } := by
  cases r <;> simp [eq_comm]

end Sys2Proof.Machine
end

