-- ==== Sys2Proof/Laws/Decoder.lean ====
section
/-! SUPPORT. Sys2Proof/Laws/Decoder.lean: one lemma for each operation of DEC that says all it does, and the arithmetic of
window indices. -/

namespace Sys2Proof.Machine

/-! ## Window indices (20_memory.md R43) -/

theorem windowNext_lt {i : Nat} (h : i < 1023) : windowNext i < 1023 := by unfold windowNext; split <;> omega

theorem windowNext_eq_mod {i : Nat} (h : i < 1023) : windowNext i = (i + 1) % 1023 := by
  unfold windowNext; split <;> omega

theorem windowAt_lt (i k : Nat) : windowAt i k < 1023 := by unfold windowAt; omega

theorem windowAt_zero {i : Nat} (h : i < 1023) : windowAt i 0 = i := by unfold windowAt; omega

theorem windowNext_windowAt (i k : Nat) : windowNext (windowAt i k) = windowAt i (k + 1) := by
  unfold windowNext windowAt; split <;> omega

theorem windowAdvance_eq {i k : Nat} (hi : i < 1023) (hk : k ≤ 63) : windowAdvance i k = windowAt i k := by
  unfold windowAdvance windowAt; split <;> omega

theorem windowSlot_lt {c d : Nat} (hc : c < 1023) (hd : d ≤ 1023) : windowSlot c d < 1023 := by
  unfold windowSlot; split <;> omega

/-- The slot one back from the next cursor is the cursor. -/
theorem windowSlot_next_one {c : Nat} (hc : c < 1023) : windowSlot (windowNext c) 1 = c := by
  unfold windowSlot windowNext; split <;> split <;> omega

/-- Distances grow by one when the cursor moves on by one. -/
theorem windowSlot_next_succ {c k : Nat} (hc : c < 1023) (h1 : 1 ≤ k) (h2 : k < 1023) :
    windowSlot (windowNext c) (k + 1) = windowSlot c k := by
  unfold windowSlot windowNext; split <;> split <;> split <;> omega

theorem windowSlot_ne {c k : Nat} (h1 : 1 ≤ k) (h2 : k < 1023) : windowSlot c k ≠ c := by
  unfold windowSlot; split <;> omega

/-- Source and destination move on together. -/
theorem windowNext_windowSlot {c o : Nat} (hc : c < 1023) (ho : o ≤ 1023) :
    windowNext (windowSlot c o) = windowSlot (windowNext c) o := by
  unfold windowNext windowSlot; split <;> split <;> split <;> split <;> omega

/-! ## The stream -/

/-- All that `SrcNext()` answers (10_state.md R19). -/
theorem Dec.srcNext_cases (d : Dec) :
    (d.srcNext = none ∧ d.src.length ≤ d.ipos) ∨
    ∃ b, d.srcNext = some (b, { d with ipos := d.ipos + 1 }) ∧ d.src[d.ipos]? = some b ∧ d.ipos < d.src.length := by
  unfold Dec.srcNext
  by_cases h : d.ipos < d.src.length
  · right; simp [h]
  · left; simp [Nat.not_lt.1 h]

/-! ## The window's operations -/

theorem Dec.readWin_eq (d : Dec) {a : Nat} (h : a < 1023) :
    d.readWin a = .ok (Memory.read Space.win.unlisted d.win a) := by
  simp [Dec.readWin, memRead, h]

theorem Dec.writeWin_eq (d : Dec) {a : Nat} (v : Byte) (h : a < 1023) :
    d.writeWin a v = .ok { d with win := Memory.write Space.win.unlisted d.win a v } := by
  simp [Dec.writeWin, memWrite, h]

/-- `WR.LIT(b)` and the limit test (44_window_reconstructor.md R156). -/
theorem Dec.wrLit_eq (lim : Option Nat) (b : Byte) (d : Dec) (h : d.cur < 1023) :
    d.wrLit lim b = .ok { d with
      out := d.out ++ [b], ocnt := d.ocnt + 1, win := Memory.write Space.win.unlisted d.win d.cur b
      cur := windowNext d.cur, state := if lim = some (d.ocnt + 1) then .done else .dispatch } := by
  rw [Dec.wrLit, Dec.writeWin_eq _ _ (by simpa using h)]
  simp only [Dec.limitTest, Dec.atLimit, Dec.emit, Dec.stop, beq_iff_eq]
  split <;> rfl

/-- `WR.COPY_BYTE` (R159). -/
theorem Dec.copyByte_eq (d : Dec) (h1 : d.srcp < 1023) (h2 : d.dstp < 1023) :
    d.copyByte = .ok { d with
      stg := Memory.read Space.win.unlisted d.win d.srcp
      out := d.out ++ [Memory.read Space.win.unlisted d.win d.srcp], ocnt := d.ocnt + 1
      win := Memory.write Space.win.unlisted d.win d.dstp (Memory.read Space.win.unlisted d.win d.srcp)
      srcp := windowNext d.srcp, dstp := windowNext d.dstp, rem := d.rem - 1 } := by
  simp only [Dec.copyByte, Dec.readWin_eq d h1]
  rw [Dec.writeWin_eq _ _ (by simpa using h2)]
  rfl

/-- One row of `Copy` (43_token_parser.md R145), the last byte's and any other's. -/
theorem Dec.copyStep_eq (lim : Option Nat) (d : Dec) (h0 : d.rem ≠ 0) (h1 : d.srcp < 1023) (h2 : d.dstp < 1023) :
    ∃ d1, d.copyByte = .ok d1 ∧ d1.cur = d.cur ∧ d1.len = d.len ∧ d1.state = d.state ∧
      d.copyStep lim = .ok (Dec.limitTest lim (if d.rem = 1 then d1.copyEnd else d1)) := by
  refine ⟨_, d.copyByte_eq h1 h2, rfl, rfl, rfl, ?_⟩
  simp only [Dec.copyStep, h0, if_false, d.copyByte_eq h1 h2]

/-- The window after a byte is produced holds the history of the longer output (20_memory.md R55). -/
theorem history_emit {win : Memory} {c : Nat} {out : Bytes} (b : Byte) (hc : c < 1023)
    (hw : Memory.wf Space.win.unlisted Config.windowSize win)
    (h : ∀ k, 1 ≤ k → k ≤ 1023 → Memory.read Space.win.unlisted win (windowSlot c k) = Ref.hist out k) (k : Nat)
    (h1 : 1 ≤ k) (h2 : k ≤ 1023) :
    Memory.read Space.win.unlisted (Memory.write Space.win.unlisted win c b) (windowSlot (windowNext c) k) =
      Ref.hist (out ++ [b]) k := by
  rw [Memory.read_write hw.1]
  obtain rfl | ⟨j, rfl, hj⟩ : k = 1 ∨ ∃ j, k = j + 1 ∧ 1 ≤ j :=
    (Nat.eq_or_lt_of_le h1).imp Eq.symm fun h => ⟨k - 1, by omega, by omega⟩
  · simp [windowSlot_next_one hc, Ref.hist]
  · rw [windowSlot_next_succ hc hj (by omega), if_neg (windowSlot_ne hj (by omega)), h j hj (by omega)]
    simp only [Ref.hist, List.length_append, List.length_singleton]
    by_cases hk : j ≤ out.length
    · rw [if_pos hk, if_pos (by omega), List.getD_append _ _ _ _ (by omega)]; congr 1; omega
    · rw [if_neg hk, if_neg (by omega)]

/-- The start's window holds the empty history (R163, 70_reset_and_hazards.md R223). -/
theorem history_start (c k : Nat) (h : 1 ≤ k) :
    Memory.read Space.win.unlisted [] (windowSlot c k) = Ref.hist [] k := by
  simp [Ref.hist, Space.unlisted, show ¬ k ≤ 0 by omega]

end Sys2Proof.Machine
end

