-- ==== Sys2Proof/Laws/Encoder.lean ====
section
/-! SUPPORT. Sys2Proof/Laws/Encoder.lean: one lemma for each operation of ENC that says all it does. -/

namespace Sys2Proof.Machine

/-! ## Memories -/

theorem Enc.readIn_eq (e : Enc) {a : Nat} (h : a < e.len) :
    e.readIn a = .ok (Memory.read Space.inp.unlisted e.inMem a) := by
  simp [Enc.readIn, memRead, h]

theorem Enc.readItem_eq (e : Enc) {a : Nat} (h : a < 16) :
    e.readItem a = .ok (Memory.read Space.items.unlisted e.tp.items a) := by
  simp [Enc.readItem, memRead, h]

theorem Enc.writeItem_eq (e : Enc) {a : Nat} (v : Byte) (h : a < 16) :
    e.writeItem a v = .ok { e with tp := { e.tp with items := Memory.write Space.items.unlisted e.tp.items a v } } := by
  simp [Enc.writeItem, memWrite, h]

@[simp] theorem Enc.length_input (e : Enc) : e.input.length = e.len := by simp [Enc.input]

theorem Enc.input_getD (e : Enc) {i : Nat} (h : i < e.len) :
    e.input.getD i 0 = Memory.read Space.inp.unlisted e.inMem i := by
  rw [List.getD, Enc.input, Memory.getElem?_bytes]; simp [h]

/-! ## The MatchFinder (40_match_finder.md R85, R90) -/

theorem Ref.runLength_le (inp : Bytes) (n i j : Nat) : Ref.runLength inp i j n ≤ n := by
  induction n generalizing i j with
  | zero => simp [Ref.runLength]
  | succ n ih =>
    simp only [Ref.runLength]
    split
    · have := ih (i + 1) (j + 1); omega
    · omega

/-- The comparison loop adds to `K` the equal bytes from there on. -/
theorem Enc.mfCompare_eq (n : Nat) (e : Enc) (hk : e.mf.k + n = e.mf.maxchk) (hm : e.mf.maxchk ≤ e.mf.ofs)
    (ho : e.mf.ofs ≤ e.p) (hp : e.p + e.mf.maxchk ≤ e.len) :
    Enc.mfCompare n e = .ok { e with
      mf := { e.mf with k := e.mf.k + Ref.runLength e.input (e.p - e.mf.ofs + e.mf.k) (e.p + e.mf.k) n } } := by
  induction n generalizing e with
  | zero => simp [Enc.mfCompare, Ref.runLength]
  | succ n ih =>
    have i1 : e.p - e.mf.ofs + e.mf.k < e.len := by omega
    have i2 : e.p + e.mf.k < e.len := by omega
    rw [Enc.mfCompare, if_pos (by omega), e.readIn_eq i1, e.readIn_eq i2, Ref.runLength, e.input_getD i1, e.input_getD i2]
    dsimp only
    split
    · have h := ih { e with mf := { e.mf with k := e.mf.k + 1 } } (by dsimp only; omega) hm ho hp
      dsimp only at h
      rw [h]
      simp [Enc.input, Nat.add_assoc]
    · simp

/-- `MF.TRY` leaves the run at offset `OFS` in `K`. -/
theorem Enc.mfTry_eq (cap : Nat) (e : Enc) (hr : e.mf.remain = e.len - e.p) (hp : e.p < e.len) (ho : e.mf.ofs ≤ e.p) :
    e.mfTry cap = .ok { e with
      mf := { e.mf with
        maxchk := min (min (e.len - e.p) e.mf.ofs) cap, k := Ref.run e.input cap e.p e.mf.ofs } } := by
  rw [Enc.mfTry, Enc.mfCompare_eq]
  · simp [hr, Ref.run, Enc.input]
  · simp
  · simp only [hr]; omega
  · exact ho
  · simp only [hr]; omega

/-- `MF.UPDATE` touches only the best match. -/
theorem Enc.mfUpdate_frame (e : Enc) :
    e.mfUpdate = { e with mf := { e.mf with bestl := e.mfUpdate.mf.bestl, besto := e.mfUpdate.mf.besto } } := by
  unfold Enc.mfUpdate; split <;> rfl

/-! ## The TokenPacker (41_token_packer.md R102 to R104) -/

/-- A token is put into the open group. -/
theorem Enc.putToken_eq (o l : Nat) (e : Enc) (h : e.tp.nbytes < 15) :
    e.putToken o l = .ok { e with
      tp := { e.tp with
        items := Memory.write Space.items.unlisted
          (Memory.write Space.items.unlisted e.tp.items e.tp.nbytes (packByte1 o l)) (e.tp.nbytes + 1) (packByte2 o)
        nbytes := e.tp.nbytes + 2, flags := flagsMark e.tp.flags e.tp.nitems, nitems := e.tp.nitems + 1 } } := by
  rw [Enc.putToken, e.writeItem_eq _ (by omega)]
  dsimp only
  rw [Enc.writeItem_eq _ _ (by omega)]

/-- The emitting loop of a flush. -/
theorem Enc.emitItems_eq (a n : Nat) (e : Enc) (h : a + n ≤ 16) :
    Enc.emitItems a n e = .ok { e with
      out := e.out ++ Memory.bytes Space.items.unlisted e.tp.items a n, total := e.total + n } := by
  induction n generalizing a e with
  | zero => simp [Enc.emitItems, Memory.bytes]
  | succ n ih =>
    rw [Enc.emitItems, e.readItem_eq (by omega)]
    dsimp only
    rw [ih _ _ (by omega)]
    simp [Memory.bytes, Enc.emit, show e.total + 1 + n = e.total + (n + 1) by omega]

end Sys2Proof.Machine
end

