-- ==== Sys2Proof/Laws/Encoding.lean ====
section
/-! SUPPORT. Sys2Proof/Laws/Encoding.lean: the token's bytes and fields as arithmetic (30_encoding.md R64, R65), and the
shape of what the encoder and the decoder answer. -/

namespace Sys2Proof

theorem packByte1_toNat {offset length : Nat} (ho : offset < 1024) (hl : length < 64) :
    (packByte1 offset length).toNat = length * 4 + offset / 256 := by
  have h1 : length <<< 2 = 2 ^ 2 * length := by rw [Nat.shiftLeft_eq, Nat.mul_comm]
  have h2 : offset >>> 8 < 2 ^ 2 := by rw [Nat.shiftRight_eq_div_pow]; omega
  rw [packByte1, h1, ← Nat.two_pow_add_eq_or_of_lt h2, show (0xFF : Nat) = 2 ^ 8 - 1 from rfl,
    Nat.and_two_pow_sub_one_eq_mod, Nat.shiftRight_eq_div_pow, BitVec.toNat_ofNat]
  omega

theorem packByte2_toNat (offset : Nat) : (packByte2 offset).toNat = offset % 256 := by
  rw [packByte2, show (0xFF : Nat) = 2 ^ 8 - 1 from rfl, Nat.and_two_pow_sub_one_eq_mod, BitVec.toNat_ofNat]
  omega

theorem unpackOffset_toNat (b1 b2 : Byte) : (unpackOffset b1 b2).toNat = b2.toNat + b1.toNat % 4 * 256 := by
  have := b2.isLt
  rw [unpackOffset, show (0x03 : Nat) = 2 ^ 2 - 1 from rfl, Nat.and_two_pow_sub_one_eq_mod, Nat.shiftLeft_eq,
    BitVec.toNat_ofNat]
  omega

theorem unpackLength_toNat (b1 : Byte) : (unpackLength b1).toNat = b1.toNat / 4 := by
  have := b1.isLt
  rw [unpackLength, Nat.shiftRight_eq_div_pow, BitVec.toNat_ofNat]
  omega

/-- A canonical no-op's bytes are zero (42_padding_controller.md R118). -/
theorem packByte1_zero : packByte1 0 0 = 0x00#8 := rfl

theorem packByte2_zero : packByte2 0 = 0x00#8 := rfl

/-- What a token decodes to, by its fields (30_encoding.md R68). -/
theorem decodeToken_cases (b1 b2 : Byte) :
    (unpackLength b1 = 0 ∧ decodeToken b1 b2 = .nop (unpackOffset b1 b2)) ∨
    (unpackLength b1 ≠ 0 ∧ unpackOffset b1 b2 = 0 ∧ decodeToken b1 b2 = .copy0 (unpackLength b1)) ∨
    (unpackLength b1 ≠ 0 ∧ unpackOffset b1 b2 ≠ 0 ∧
      decodeToken b1 b2 = .copy (unpackOffset b1 b2) (unpackLength b1)) := by
  unfold decodeToken
  by_cases h1 : unpackLength b1 = 0
  · exact .inl ⟨h1, by rw [if_pos h1]⟩
  · by_cases h2 : unpackOffset b1 b2 = 0
    · exact .inr (.inl ⟨h1, h2, by rw [if_neg h1, if_pos h2]⟩)
    · exact .inr (.inr ⟨h1, h2, by rw [if_neg h1, if_neg h2]⟩)

end Sys2Proof
end

