-- ==== Sys2Proof/Laws/PerInstr.lean ====
section
/-! SUPPORT. Sys2Proof/Laws/PerInstr.lean: the statement families that are made one constructor at a time. -/

namespace Sys2Proof.Laws.ItemSize

/-- An instruction's encoding has as many bytes as the parser advances by (30_encoding.md R66, 43_token_parser.md R144), and
the table's width in whole bytes covers them. -/
def Statement (i : Instr) : Prop := (encode i).length = i.size ∧ 8 * i.size ≤ i.tableBits

theorem flags (f : Byte) : Statement (.flags f) := ⟨rfl, Nat.le_refl _⟩
theorem lit (b : Byte) : Statement (.lit b) := ⟨rfl, Nat.le_add_right _ _⟩
theorem nop (off : BitVec 10) : Statement (.nop off) := ⟨rfl, Nat.le_add_right _ _⟩
theorem copy (off : BitVec 10) (len : BitVec 6) : Statement (.copy off len) := ⟨rfl, Nat.le_add_right _ _⟩
theorem copy0 (len : BitVec 6) : Statement (.copy0 len) := ⟨rfl, Nat.le_add_right _ _⟩

end Sys2Proof.Laws.ItemSize
end

