-- ==== Sys2Proof/Tests/Slice0.lean ====
section
/-! SUPPORT. Sys2Proof/Tests/Slice0.lean: small tests, their expected results taken from spec/95_test_vectors.md or worked by
hand from the rule named, and for every obligation with hypotheses a concrete state that meets them. -/

namespace Sys2Proof.Tests

open Sys2Proof.Machine

/-! ## Well-formedness: the table's constraints (30_encoding.md R68) -/

theorem test_wf_copy_without_offset : (Instr.copy 0#10 5#6).wf = false := by decide
theorem test_wf_copy_without_length : (Instr.copy 5#10 0#6).wf = false := by decide
theorem test_wf_copy0_without_length : (Instr.copy0 0#6).wf = false := by decide
theorem test_wf_others : (Instr.flags 0xFF#8).wf ∧ (Instr.lit 0x00#8).wf ∧ (Instr.nop 1023#10).wf := by decide

/-! ## Decoding: words written out from the formats of R61 to R63, and the table rows of R68 -/

/-- Format `G`, `1110 0100`. -/
theorem test_decode_flags : decode .header [0b11100100#8, 0x10#8] = .ok (.flags 0xE4#8, [0x10#8]) := by decide
/-- Format `L`, `0 1111 1100`: a byte that would be a token's byte1 is a literal under flag bit 0. -/
theorem test_decode_lit : decode (.item false) [0b11111100#8] = .ok (.lit 0xFC#8, []) := by decide
/-- Format `M`, `1 000000 11 1111 1111`: length field 0, the offset field is all ones and ignored. -/
theorem test_decode_nop : decode (.item true) [0b00000011#8, 0b11111111#8] = .ok (.nop 1023#10, []) := by decide
/-- Format `M`, `1 000011 01 0000 0000` (V-TP-3): offset bit 8 is bit 0 of byte1. -/
theorem test_decode_copy : decode (.item true) [0b00001101#8, 0b00000000#8] = .ok (.copy 256#10 3#6, []) := by decide
/-- Format `M`, `1 000001 00 0000 0000`: the shortest `COPY0` (V-WR-8). -/
theorem test_decode_copy0 : decode (.item true) [0b00000100#8, 0b00000000#8] = .ok (.copy0 1#6, []) := by decide
/-- A half token is no instruction (43_token_parser.md R140). -/
theorem test_decode_half_token : decode (.item true) [0x0C#8] = .error .noTokenByte2 := by decide
/-- The table's numbers: `1 AAAA` is `COPY 682,42` (V-TP-6), `0 5A` a literal; a word above 17 bits is no row's. -/
theorem test_table_words :
    decodeTableWord 24 0x1AAAA = some (.copy 682#10 42#6) ∧ decodeTableWord 16 0x05A = some (.lit 0x5A#8) ∧
    decodeTableWord 24 0x1FC00 = some (.copy0 63#6) ∧ decodeTableWord 24 0x10005 = some (.nop 5#10) ∧
    decodeTableWord 8 0xE4 = some (.flags 0xE4#8) ∧ decodeTableWord 24 0x20000 = none := by decide

/-! ## States the tests run on -/

/-- DEC selected, with a stream, standing in `st` with the given shift register; all else as after a start. -/
def decAt (st : DecState) (flg : Byte) (fcnt : Nat) (src : Bytes) : State :=
  { State.reset with op := .decompress, dec := { State.reset.dec with state := st, src := src, flg := flg, fcnt := fcnt } }

/-- DEC after `LIT 41` (V-WR-1), in `Dispatch` before `COPY 1,5`: flag bits `1000 0000` left. -/
def decLate : State :=
  { State.reset with
    op := .decompress
    dec := { State.reset.dec with
      state := .dispatch, src := [0x40#8, 0x41#8, 0x14#8, 0x01#8], ipos := 2, flg := 0x80#8, fcnt := 7
      win := [(0, 0x41#8)], cur := 1, out := [0x41#8], ocnt := 1 } }

/-- The same machine inside the copy, before its first byte. -/
def decCopying : State :=
  { decLate with dec := { decLate.dec with
      state := .copy, ipos := 4, flg := 0x00#8, fcnt := 6, b1 := 0x14#8, off := 1#10, len := 5#6
      srcp := 0, dstp := 1, rem := 5 } }

/-- ENC started on eight bytes 0x41 (V-SRC-B). -/
def encFresh : Enc :=
  { State.reset.enc with
    state := .run, len := 8
    inMem := [(0, 0x41#8), (1, 0x41#8), (2, 0x41#8), (3, 0x41#8), (4, 0x41#8), (5, 0x41#8), (6, 0x41#8), (7, 0x41#8)] }

/-- ENC with the whole of V-SRC-B's group put: P2 after step 6, the MatchFinder as the search at `P = 7` leaves it. -/
def encFull : Enc :=
  { encFresh with
    p := 8
    mf := { remain := 1, limit := 7, ofs := 8, maxchk := 1, k := 1, besto := 3, bestl := 1 }
    tp := { flags := 0x10#8, nitems := 6, nbytes := 7,
            items := [(0, 0x41#8), (1, 0x41#8), (2, 0x41#8), (3, 0x0C#8), (4, 0x03#8), (5, 0x41#8), (6, 0x41#8)] } }

/-- ENC with that group flushed, before the padding. -/
def encFlushed : Enc :=
  { encFull with
    state := .zeroPad, out := [0x10#8, 0x41#8, 0x41#8, 0x41#8, 0x0C#8, 0x03#8, 0x41#8, 0x41#8], total := 8
    tp := { encFull.tp with flags := 0x00#8, nitems := 0, nbytes := 0 } }

/-- The machine with the given ENC, selected. -/
def encAt (e : Enc) : State := { State.reset with enc := e }

/-- The state of an outcome, if it is a next state. -/
def nextOf (o : Host.Outcome State Fault Refusal) : Option State :=
  match o with
  | .next s => some s
  | .fault _ => none
  | .refused _ => none

/-- The machine's answer read through a function. -/
def dec? {α : Type} (f : Dec → α) (o : Host.Outcome State Fault Refusal) : Option α := (nextOf o).map fun s => f s.dec

/-- An engine's answer read through a function. -/
def enc? {α : Type} (f : Enc → α) (r : Except Fault Enc) : Option α := r.toOption.map f

/-! ## One step of DEC -/

/-- V-TPR-7's flag byte. -/
theorem test_step_flags :
    dec? (fun d => (d.flg, d.fcnt, d.ipos, d.state)) (step (decAt .readFlagByte 0x00#8 0 [0xA0#8]))
      = some (0xA0#8, 8, 1, .dispatch) := by decide
/-- No flag byte: the run ends (V-TPR-1). -/
theorem test_step_flags_eof :
    dec? (fun d => (d.out, d.ipos, d.state)) (step (decAt .readFlagByte 0xFF#8 0 [])) = some ([], 0, .done) := by decide
/-- A literal under flag bit 0, the bits after it move up (R138, R156). -/
theorem test_step_lit :
    dec? (fun d => (d.out, d.win, d.cur, d.flg, d.fcnt, d.ipos)) (step (decAt .dispatch 0x40#8 8 [0x41#8]))
      = some ([0x41#8], [(0, 0x41#8)], 1, 0x80#8, 7, 1) := by decide
/-- A literal at the window's last slot: the cursor wraps to 0 (R156), and the fill value is a byte like any other. -/
theorem test_exec_lit_wraps :
    dec? (fun d => (d.cur, Memory.read Space.win.unlisted d.win 1022, d.state))
      (exec (.lit 0x77#8) { decLate with dec := { decLate.dec with cur := 1022 } })
      = some (0, 0x77#8, .dispatch) := by decide
/-- V-TPR-9's no-op: the cursor stays, two bytes are consumed. -/
theorem test_step_nop :
    dec? (fun d => (d.out, d.cur, d.ipos, d.fcnt, d.state)) (step (decAt .dispatch 0xC0#8 8 [0x00#8, 0x05#8]))
      = some ([], 0, 2, 7, .dispatch) := by decide
/-- V-WR-1: `COPY 1,5` after `LIT 41`. -/
theorem test_step_copy :
    dec? (fun d => (d.out, d.cur, d.ipos, d.state)) (step decLate)
      = some (List.replicate 6 0x41#8, 6, 4, .dispatch) := by decide
/-- V-TPR-17: a limit of 3 ends the run in the middle of that copy, with `REM = 3` left. -/
theorem test_step_copy_limit :
    dec? (fun d => (d.out, d.rem, d.cur, d.state)) (step { decLate with outLimit := some 3 })
      = some (List.replicate 3 0x41#8, 3, 1, .done) := by decide
/-- V-WR-6: `COPY 0,63` first of all gives 63 fill bytes. -/
theorem test_step_copy0 :
    dec? (fun d => (d.out, d.cur)) (step (decAt .dispatch 0x80#8 8 [0xFC#8, 0x00#8]))
      = some (List.replicate 63 0x11#8, 63) := by decide +kernel
/-- V-TPR-5: a half token is dropped. -/
theorem test_step_half_token :
    dec? (fun d => (d.out, d.ipos, d.state)) (step (decAt .dispatch 0x80#8 8 [0x0C#8])) = some ([], 1, .done) := by decide
/-- A placed word runs as the first instruction after reset. -/
theorem test_first_instruction :
    dec? (·.out) (step (State.reset.withFetchWord 24 0x10C03)) = some [0x11#8, 0x11#8, 0x11#8] := by decide

/-! ## ENC's operations -/

/-- The search at position `p` of an input, with a lookahead capacity. -/
def searchAt (bs : Bytes) (p cap : Nat) : Option (Nat × Nat) :=
  enc? (fun e => e.mf.result)
    (Enc.mfSearch cap { encFresh with inMem := Memory.ofBytes Space.inp.unlisted 0 bs, len := bs.length, p := p })

/-- V-MF-5: a tie goes to the smaller offset. -/
theorem test_search_tie :
    searchAt [0x41#8, 0x42#8, 0x43#8, 0x78#8, 0x41#8, 0x42#8, 0x43#8, 0x79#8, 0x41#8, 0x42#8, 0x43#8] 8 63
      = some (4, 3) := by decide
/-- V-MF-6: a longer run at a larger offset wins. -/
theorem test_search_longer :
    searchAt [0x41#8, 0x42#8, 0x43#8, 0x44#8, 0x78#8, 0x41#8, 0x42#8, 0x43#8, 0x79#8, 0x79#8, 0x41#8, 0x42#8, 0x43#8,
      0x44#8] 10 63 = some (10, 4) := by decide
/-- V-MF-13 and V-MF-12 (128 equal bytes, `P = 64`, `remaining = 64`; offsets below 63 have shorter runs): the observable
effect of `LOOKAHEAD_CAP`. -/
theorem test_search_cap :
    let e : Enc := { encFresh with
      inMem := [], len := 128, p := 64
      mf := { remain := 64, limit := 64, ofs := 63, maxchk := 0, k := 0, besto := 62, bestl := 62 } }
    enc? (fun e => e.mf.result) (Enc.mfScan 63 2 e) = some (63, 63) ∧
      enc? (fun e => e.mf.result) (Enc.mfScan 64 2 e) = some (64, 63) := by
  decide +kernel
/-- P2 step 4: the match of V-SRC-B is put. -/
theorem test_put_match :
    enc? (fun e => (e.p, e.tp.flags, e.tp.nitems, Memory.bytes Space.items.unlisted e.tp.items 0 e.tp.nbytes))
      (Enc.putMatch 3 3 { encFull with p := 3, tp := { encFull.tp with flags := 0x00#8, nitems := 3, nbytes := 3 } })
      = some (6, 0x10#8, 4, [0x41#8, 0x41#8, 0x41#8, 0x0C#8, 0x03#8]) := by decide
/-- V-SRC-B, `noPad`: the final flush ends the run with 8 bytes. -/
theorem test_final_flush :
    enc? (fun e => (e.out, e.csize, e.state)) (Enc.finalFlush .noPad encFull)
      = some ([0x10#8, 0x41#8, 0x41#8, 0x41#8, 0x0C#8, 0x03#8, 0x41#8, 0x41#8], 8, .done) := by decide
/-- P2, `exactPad`: two no-ops fill the group. -/
theorem test_nopfill :
    enc? (fun e => (e.tp.flags, e.tp.nitems, e.tp.nbytes)) encFull.nopFill = some (0x13#8, 8, 11) := by decide
/-- V-PC-4 and V-PC-12: the fill of an even group's total and the one that reaches the boundary (12 literals: 9 bytes out,
4 items held, one no-op). -/
theorem test_nopfill_aligned :
    enc? (fun e => (e.tp.flags, e.tp.nitems, e.tp.nbytes))
      (Enc.nopFill { encFull with total := 9, tp := { encFull.tp with flags := 0x00#8, nitems := 4, nbytes := 4 } })
      = some (0x08#8, 5, 6) := by decide
/-- V-SRC-B, `default`: eight zero bytes. -/
theorem test_zero_pad :
    (encFlushed.zeroPad.csize, encFlushed.zeroPad.out.drop 8) = (16, List.replicate 8 0x00#8) := by decide
/-- V-PC-3: 14 bytes are 2 short, and 18 bytes follow: `FF`, sixteen `00`, `FF`. -/
theorem test_template_pad :
    ((Enc.templatePad { encFlushed with out := [], total := 14 }).out,
      (Enc.templatePad { encFlushed with out := [], total := 14 }).csize)
      = (0xFF#8 :: List.replicate 16 0x00#8 ++ [0xFF#8], 32) := by decide

/-! ## Witnesses: the hypotheses of every obligation that has some are met together -/

/-- DEC just started on the stream of P6. -/
def decStarted : State :=
  { State.reset with
    op := .decompress
    dec := { State.reset.dec with
      state := .readFlagByte
      src := [0xE4#8, 0x10#8, 0x03#8, 0x00#8, 0x07#8, 0x14#8, 0x02#8, 0x41#8, 0x42#8, 0x0C#8, 0x02#8, 0xFC#8] } }

/-- DEC idle, START pending. -/
def decPending : State := { decStarted with start := true, dec := { decStarted.dec with state := .idle } }

/-- DEC done after another run, START pending on the same stream. -/
def decPendingAgain : State :=
  { decLate with start := true, dec := { decLate.dec with state := .done, src := decPending.dec.src, srcp := 7, stg := 0x55#8 } }

/-- ENC idle with an empty input, START pending. -/
def encPending : State := { State.reset with start := true }

/-- ENC done after another run, with an empty input, START pending. -/
def encPendingAgain : State := encAt { encFlushed with state := .done, inMem := [], len := 0, p := 0 } |> hostStart

/-- The clauses of ENC's invariant that can be decided on a concrete ENC give the whole of it. -/
theorem encInv_of {e : Enc} (hc : e.mf.maxchk ≤ 63)
    (h : (e.mf.inRange ∧ e.tp.inRange ∧ e.pc.inRange ∧ e.total = e.out.length) ∧
      (Memory.wf Space.inp.unlisted e.len e.inMem ∧ Memory.wf Space.items.unlisted Config.itemsSize e.tp.items) ∧
      (e.running = true → e.p ≤ e.len ∧ (0 < e.p → 1 ≤ e.mf.remain ∧ e.mf.remain ≤ e.len) ∧ (e.state ≠ .run → e.p = e.len)) ∧
      (e.running = true → (e.tp.nitems ≤ if e.state = .finalFlush then 8 else 7) ∧
        (e.tp.nitems ≤ e.tp.nbytes ∧ e.tp.nbytes ≤ 2 * e.tp.nitems) ∧
        ∀ i, i < 8 → e.tp.nitems ≤ i → e.tp.flags.getLsbD (7 - i) = false) ∧
      (e.state = .zeroPad ∨ e.state = .templatePad → e.tp.nitems = 0) ∧ (e.state = .done → e.csize = e.total)) :
    e.Inv := by
  obtain ⟨⟨h1, h2, h3, h4⟩, ⟨h5, h6⟩, h7, h8, h9, h10⟩ := h
  exact
    { mf := h1, maxchk := hc.trans Config.lookaheadCap_ge, remain := fun hr => (h7 hr).2.1, tp := h2, pc := h3
      inWf := h5, itemsWf := h6, total := h4, pos := fun hr => (h7 hr).1, exhausted := fun hr => (h7 hr).2.2
      nitems := fun hr => (h8 hr).1, flushed := h9, nbytes := fun hr => (h8 hr).2.1
      flags := fun hr i hi hlt => (h8 hr).2.2 i hlt hi, csize := h10 }

/-- The same for DEC, but for the history, which is not decided index by index; no limit is set in these states. -/
theorem decInv_of {d : Dec}
    (h : Memory.wf Space.win.unlisted Config.windowSize d.win ∧
      (d.cur < 1023 ∧ d.srcp < 1023 ∧ d.dstp < 1023 ∧ d.rem ≤ 63 ∧ d.fcnt ≤ 8 ∧ d.ocnt = d.out.length) ∧
      (d.running = true → d.ipos ≤ d.src.length) ∧
      (d.state = .copy → 1 ≤ d.rem ∧ d.rem ≤ d.len.toNat ∧ d.dstp = windowAt d.cur (d.len.toNat - d.rem) ∧
        d.srcp = windowSlot d.dstp d.off.toNat))
    (hist : d.running = true → ∀ k, 1 ≤ k → k ≤ 1023 →
      Memory.read Space.win.unlisted d.win (windowSlot d.writeIndex k) = Ref.hist d.out k) : d.Inv none := by
  obtain ⟨h1, ⟨h2, h3, h4, h5, h6, h7⟩, h8, h9⟩ := h
  exact
    { winWf := h1, cur := h2, srcp := h3, dstp := h4, rem := h5, fcnt := h6, ocnt := h7, ipos := h8
      belowLimit := fun _ _ hn => by simp at hn
      copying := h9, history := hist }

theorem witness_decStarted_inv : decStarted.Inv where
  enc := encInv_of (by decide) (by decide)
  dec := decInv_of (by decide)
    (fun _ k h _ => history_start 0 k h)
  encOp := by decide
  decOp := by decide

theorem witness_decLate_inv : decLate.Inv where
  enc := witness_decStarted_inv.enc
  dec := decInv_of (by decide)
    (fun _ => history_emit (c := 0) 0x41#8 (by decide) (Memory.nil_wf _ _) fun k h _ => history_start 0 k h)
  encOp := by decide
  decOp := by decide

/-- A running state inside a copy keeps the invariant too. -/
theorem witness_decCopying_inv : decCopying.Inv where
  enc := witness_decStarted_inv.enc
  dec := decInv_of (by decide)
    (fun _ => history_emit (c := 0) 0x41#8 (by decide) (Memory.nil_wf _ _) fun k h _ => history_start 0 k h)
  encOp := by decide
  decOp := by decide

theorem witness_decPending_inv : decPending.Inv where
  enc := witness_decStarted_inv.enc
  dec := decInv_of (by decide) (by decide)
  encOp := by decide
  decOp := by decide

theorem witness_encFresh_inv : (encAt encFresh).Inv where
  enc := encInv_of (by decide) (by decide)
  dec := decInv_of (by decide) (by decide)
  encOp := by decide
  decOp := by decide

/-- An open group of six items, the input exhausted: the no-op fill is next. -/
theorem witness_encFull_inv : (encAt { encFull with state := .nopFill }).Inv where
  enc := encInv_of (by decide) (by decide)
  dec := witness_encFresh_inv.dec
  encOp := by decide
  decOp := by decide

theorem witness_encFlushed_inv : (encAt encFlushed).Inv where
  enc := encInv_of (by decide) (by decide)
  dec := witness_encFresh_inv.dec
  encOp := by decide
  decOp := by decide

theorem witness_encStarted : (encAt encFresh).encStarted :=
  ⟨rfl, rfl, ⟨{ encFresh with state := .idle, total := 5 }, rfl⟩, by decide, by decide⟩

theorem witness_decStarting : decPending.decStarting ∧ decPendingAgain.decStarting := by
  unfold State.decStarting; decide

theorem witness_encStarting : encPending.encStarting ∧ encPendingAgain.encStarting :=
  ⟨⟨rfl, rfl, rfl, Nat.zero_le _⟩, ⟨rfl, rfl, rfl, Nat.zero_le _⟩⟩

/-! ### Encoding -/

theorem witness_DecodeOfEncodeIsTheInstruction :
    (Instr.copy 1023#10 63#6).wf = true ∧ (Instr.copy 1#10 1#6).wf = true ∧ (Instr.copy0 63#6).wf = true := by decide

theorem witness_EncodeOfDecodeIsTheBytes :
    decode (.item true) [0xFF#8, 0xFF#8, 0x07#8] = .ok (.copy 1023#10 63#6, [0x07#8]) := by decide

theorem witness_NoByteOrTokenIsIllegal : ∃ s : State, s.Inv := ⟨decLate, witness_decLate_inv⟩

theorem witness_PlacedWordIsRunNext : (Instr.copy0 1#6).wf = true ∧ (Instr.copy0 63#6).wf = true := by decide

theorem witness_ItemOwnsFlagBitFromTheTop : (0 < 8 ∧ 0 < 8) ∧ (7 < 8 ∧ 7 < 8) := by decide

theorem witness_WindowSlotIsDistanceModulo1023 : (0 < 1023 ∧ 1023 ≤ 1023) ∧ (1022 < 1023 ∧ 0 ≤ 1023) := by decide

/-! ### The parser -/

theorem witness_StepRunsTheDecodedItem :
    ∃ (s : State) (i : Instr) (rest : Bytes),
      s.start = false ∧ s.op = .decompress ∧ s.dec.state = .dispatch ∧ s.dec.fcnt ≠ 0 ∧
      decode (.item (flgBit s.dec.flg)) (s.dec.src.drop s.dec.ipos) = .ok (i, rest) :=
  ⟨decLate, .copy 1#10 5#6, [], by decide⟩

theorem witness_StepRunsTheDecodedFlagByte :
    ∃ (s : State) (i : Instr) (rest : Bytes),
      s.start = false ∧ s.op = .decompress ∧ s.dec.state = .readFlagByte ∧
      decode .header (s.dec.src.drop s.dec.ipos) = .ok (i, rest) :=
  ⟨decStarted, .flags 0xE4#8, decStarted.dec.src.tail, by decide⟩

/-- Both clauses. -/
theorem witness_ShiftConsumesTheTopFlagBit :
    ((decAt .dispatch 0x00#8 0 []).dec.state = .dispatch ∧ (decAt .dispatch 0x00#8 0 []).dec.fcnt = 0) ∧
    ((decAt .dispatch 0x80#8 1 []).dec.state = .dispatch ∧ (decAt .dispatch 0x80#8 1 []).dec.fcnt ≠ 0) := by decide

/-- Each state in which bytes can be missing, with one byte too few. -/
theorem witness_EndOfInputEndsTheRun :
    (decAt .readFlagByte 0x00#8 0 []).dec.lacksBytes ∧ (decAt .dispatch 0x00#8 8 []).dec.lacksBytes ∧
    (decAt .dispatch 0x80#8 8 [0x0C#8]).dec.lacksBytes ∧ (decAt .readLiteral 0x00#8 7 []).dec.lacksBytes ∧
    (decAt .readToken1 0x00#8 7 [0x0C#8]).dec.lacksBytes ∧ (decAt .readToken2 0x00#8 7 []).dec.lacksBytes ∧
    (decAt .dispatch 0x80#8 8 []).start = false ∧ (decAt .dispatch 0x80#8 8 []).op = .decompress := by
  simp [Dec.lacksBytes, decAt, flgBit, State.reset]

theorem witness_StepIsRowsOfTheTransitionTable :
    decCopying.start = false ∧ decCopying.op = .decompress ∧ decStarted.start = false ∧ decStarted.op = .decompress := by
  decide

theorem witness_StreamPositionAdvancesBySize :
    (decLate.start = false ∧ decLate.op = .decompress ∧ decLate.dec.state = .dispatch ∧ decLate.dec.fcnt ≠ 0 ∧
      decode (.item (flgBit decLate.dec.flg)) (decLate.dec.src.drop decLate.dec.ipos) = .ok (.copy 1#10 5#6, [])) ∧
    (∃ t, step decLate = .next t) ∧
    (decStarted.dec.state = .readFlagByte ∧
      decode .header (decStarted.dec.src.drop decStarted.dec.ipos) = .ok (.flags 0xE4#8, decStarted.dec.src.tail)) ∧
    ∃ t, step decStarted = .next t :=
  ⟨by decide, ⟨_, rfl⟩, by decide, ⟨_, rfl⟩⟩

/-! ### The five instructions -/

/-- The byte there, and no byte. -/
theorem witness_FlagByteLoadsTheShiftRegister :
    (decStarted.start = false ∧ decStarted.op = .decompress ∧ decStarted.dec.state = .readFlagByte ∧
      decStarted.dec.src[decStarted.dec.ipos]? = some 0xE4#8) ∧
    ((decAt .readFlagByte 0x00#8 0 []).start = false ∧ (decAt .readFlagByte 0x00#8 0 []).op = .decompress ∧
      (decAt .readFlagByte 0x00#8 0 []).dec.state = .readFlagByte ∧
      (decAt .readFlagByte 0x00#8 0 []).dec.src[(decAt .readFlagByte 0x00#8 0 []).dec.ipos]? = none) := by decide

/-- The cursor at both ends of the window. -/
theorem witness_LiteralIsEmittedAndWritten :
    decStarted.dec.cur < 1023 ∧ ({ decLate.dec with cur := 1022 } : Dec).cur < 1023 := by decide

theorem witness_LiteralFrame :
    Memory.wf Space.win.unlisted Config.windowSize decLate.dec.win ∧ ∃ t, exec (.lit 0x42#8) decLate = .next t :=
  ⟨by decide, ⟨_, rfl⟩⟩

theorem witness_NopOnlyMovesTheParser :
    let s := decAt .dispatch 0x80#8 1 [0x03#8, 0xFF#8]
    s.start = false ∧ s.op = .decompress ∧ s.dec.state = .dispatch ∧ s.dec.fcnt ≠ 0 ∧ flgBit s.dec.flg = true ∧
      s.dec.src[s.dec.ipos]? = some 0x03#8 ∧ s.dec.src[s.dec.ipos + 1]? = some 0xFF#8 ∧ (0x03#8 : Byte).toNat < 4 := by
  decide

/-- Without a limit, and with the nearest limit that is not in the way. -/
theorem witness_CopyRunsTheByteLoop :
    decLate.dec.cur < 1023 ∧ (63#6 : BitVec 6) ≠ 0 ∧ decLate.noLimitWithin (63#6 : BitVec 6).toNat ∧
    ({ decLate with outLimit := some 65 } : State).noLimitWithin (63#6 : BitVec 6).toNat := by
  refine ⟨by decide, by decide, fun k _ _ => by simp [decLate, State.reset], fun k _ h => ?_⟩
  have h : k ≤ 63 := h
  simp only [ne_eq, Option.some.injEq, decLate]
  omega

theorem witness_Copy0CopiesFrom1023Back :
    decStarted.dec.cur < 1023 ∧ (1#6 : BitVec 6) ≠ 0 ∧ decStarted.noLimitWithin (1#6 : BitVec 6).toNat :=
  ⟨by decide, by decide, fun k _ _ => by simp [decStarted, State.reset]⟩

/-- Either row. -/
theorem witness_CopyFrame :
    ((Instr.copy 1#10 2#6).copies 1#10 2#6 ∧ ∃ t, exec (.copy 1#10 2#6) decLate = .next t) ∧
    ((Instr.copy0 1#6).copies 0#10 1#6 ∧ ∃ t, exec (.copy0 1#6) decLate = .next t) ∧
    decLate.dec.cur < 1023 ∧ Memory.wf Space.win.unlisted Config.windowSize decLate.dec.win :=
  ⟨⟨⟨by decide, .inl ⟨by decide, rfl⟩⟩, ⟨_, rfl⟩⟩, ⟨⟨by decide, .inr ⟨rfl, rfl⟩⟩, ⟨_, rfl⟩⟩, by decide, by decide⟩

/-- Each clause: a literal at the limit, a copy's first and last byte at the limit, `Done`, a limit of 0, and the end of
the input. -/
theorem witness_OutputLimitTruncates :
    (({ decLate with outLimit := some 2 } : State).outLimit = some (decLate.dec.ocnt + 1) ∧ decLate.dec.cur < 1023) ∧
    ((Instr.copy 1#10 5#6).copies 1#10 5#6 ∧ decLate.dec.ocnt < 2 ∧ 2 ≤ decLate.dec.ocnt + (5#6 : BitVec 6).toNat ∧
      decLate.dec.ocnt < 6 ∧ 6 ≤ decLate.dec.ocnt + (5#6 : BitVec 6).toNat) ∧
    (∃ t, step (decAt .done 0x00#8 0 []) = .next t) ∧
    (({ decPending with outLimit := some 0 } : State).decStarting ∧
      ({ decPending with outLimit := some 0 } : State).outLimit = some 0) ∧
    ((decAt .dispatch 0x80#8 1 [0x0C#8]).outLimit = none ∧ (decAt .dispatch 0x80#8 1 [0x0C#8]).dec.running = true ∧
      ∃ t, step (decAt .dispatch 0x80#8 1 [0x0C#8]) = .next t ∧ t.dec.state = .done) :=
  ⟨by decide, ⟨⟨by decide, .inl ⟨by decide, rfl⟩⟩, by decide⟩, ⟨_, rfl⟩, ⟨⟨rfl, rfl, rfl⟩, rfl⟩, rfl, rfl, ⟨_, rfl, rfl⟩⟩

theorem witness_CopyAppendsTheHistory :
    (Instr.copy0 63#6).copies 0#10 63#6 ∧ decLate.Inv ∧ decLate.dec.running = true ∧ decLate.dec.state ≠ .copy ∧
      decLate.noLimitWithin (63#6 : BitVec 6).toNat :=
  ⟨⟨by decide, .inr ⟨rfl, rfl⟩⟩, witness_decLate_inv, by decide, by decide, fun k _ _ => by simp [decLate, State.reset]⟩

/-- `COPY 1,5`, whose first byte already reaches the output. -/
theorem witness_OverlappingCopyRepeats :
    (1#10 : BitVec 10) ≠ 0 ∧ (5#6 : BitVec 6) ≠ 0 ∧ decLate.Inv ∧ decLate.dec.running = true ∧ decLate.dec.state ≠ .copy ∧
      decLate.noLimitWithin (5#6 : BitVec 6).toNat ∧ (∃ t, exec (.copy 1#10 5#6) decLate = .next t) ∧
      0 < (5#6 : BitVec 6).toNat ∧ (1#10 : BitVec 10).toNat ≤ decLate.dec.out.length + 0 :=
  ⟨by decide, by decide, witness_decLate_inv, by decide, by decide, fun k _ _ => by simp [decLate, State.reset], ⟨_, rfl⟩,
    by decide, by decide⟩

/-- `COPY 3,4` after one literal (V-WR-4): bytes 0 and 1 lie before the output. -/
theorem witness_CopyOfPreHistoryIsFill :
    (Instr.copy 3#10 4#6).copies 3#10 4#6 ∧ decLate.Inv ∧ decLate.dec.running = true ∧ decLate.dec.state ≠ .copy ∧
      decLate.noLimitWithin (4#6 : BitVec 6).toNat ∧ (∃ t, exec (.copy 3#10 4#6) decLate = .next t) ∧
      1 < (4#6 : BitVec 6).toNat ∧ decLate.dec.out.length + 1 < (if (3#10 : BitVec 10) = 0 then 1023 else (3#10 : BitVec 10).toNat) :=
  ⟨⟨by decide, .inl ⟨by decide, rfl⟩⟩, witness_decLate_inv, by decide, by decide,
    fun k _ _ => by simp [decLate, State.reset], ⟨_, rfl⟩, by decide, by decide⟩

/-! ### Reset, start, and what every step keeps -/

theorem witness_ResetIsIdleAndEmpty :
    decPending.dec.state = .idle ∧ decPending.enc.state = .idle ∧ ({ decPending with start := false } : State).start = false := by
  decide

theorem witness_EncStartWritesItsRegisters : encPendingAgain.encStarting := witness_encStarting.2

/-- Without a limit, and with a limit of 0. -/
theorem witness_DecStartFillsTheWindow :
    decPendingAgain.decStarting ∧ decPendingAgain.outLimit = none ∧
      ({ decPendingAgain with outLimit := some 0 } : State).decStarting ∧
      ({ decPendingAgain with outLimit := some 0 } : State).outLimit = some 0 :=
  ⟨witness_decStarting.2, rfl, ⟨rfl, rfl, rfl⟩, rfl⟩

/-- Each clause: either engine running, and an input one byte too long. -/
theorem witness_StartIsTurnedDownByName :
    ((hostStart decLate).start = true ∧ (hostStart decLate).op = .decompress ∧ (hostStart decLate).dec.running = true) ∧
    ((hostStart (encAt encFresh)).start = true ∧ (hostStart (encAt encFresh)).op = .compress ∧
      (hostStart (encAt encFresh)).enc.running = true) ∧
    ∃ s : State, s.start = true ∧ s.op = .compress ∧ s.enc.running = false ∧ Config.inCap < s.enc.len :=
  ⟨by decide, by decide, ⟨{ encPending with enc := { encPending.enc with len := Config.inCap + 1 } }, rfl, rfl, rfl,
    Nat.lt_succ_self _⟩⟩

theorem witness_DoneStaysUntilTheNextStart :
    ((encAt { encFlushed with state := .done }).start = false ∧ (encAt { encFlushed with state := .done }).op = .compress ∧
      (encAt { encFlushed with state := .done }).enc.running = false) ∧
    ((decAt .done 0x00#8 3 []).start = false ∧ (decAt .done 0x00#8 3 []).op = .decompress ∧
      (decAt .done 0x00#8 3 []).dec.running = false) := by decide

/-- A step of each engine. -/
theorem witness_EnginesShareNoState :
    (∃ t, step (encAt encFlushed) = .next t ∧ (encAt encFlushed).op = .compress) ∧
    ∃ t, step decLate = .next t ∧ decLate.op = .decompress := ⟨⟨_, rfl, rfl⟩, ⟨_, rfl, rfl⟩⟩

theorem witness_InputsAreNeverWritten : ∃ s t : State, step s = .next t := ⟨decLate, _, rfl⟩

theorem witness_OutputsOnlyGrow : ∃ s t : State, s.start = false ∧ step s = .next t := ⟨encAt encFlushed, _, rfl, rfl⟩

/-- Steps of both engines from states that keep the invariant: an item, a copy in progress, the padding. -/
theorem witness_StepKeepsTheInvariant :
    (decLate.Inv ∧ ∃ t, step decLate = .next t) ∧ (decCopying.Inv ∧ ∃ t, step decCopying = .next t) ∧
    ((encAt encFlushed).Inv ∧ ∃ t, step (encAt encFlushed) = .next t) :=
  ⟨⟨witness_decLate_inv, _, rfl⟩, ⟨witness_decCopying_inv, _, rfl⟩, ⟨witness_encFlushed_inv, _, rfl⟩⟩

/-- A state in the middle of a DEC run is reached: the host supplies a stream, selects `decompress`, gives START, and two
steps follow. -/
theorem witness_ReachableStatesKeepTheInvariant :
    ∃ s : State, Reachable s ∧ s.dec.state = .dispatch ∧ s.dec.fcnt = 8 :=
  ⟨_, .step (.step (.start (.setOp .decompress (.supplySrc [0x80#8] .reset rfl) rfl)) rfl) rfl, rfl, rfl⟩

/-- With no START pending, and with one that is allowed. -/
theorem witness_CoreRaisesNoFault :
    (decLate.Inv ∧ decLate.startAllowed) ∧ (decPending.Inv ∧ decPending.startAllowed) :=
  ⟨⟨witness_decLate_inv, nofun⟩, ⟨witness_decPending_inv, fun _ => ⟨nofun, fun _ => rfl⟩⟩⟩

theorem witness_DecRunForgetsThePast :
    decPending.decStarting ∧ decPendingAgain.decStarting ∧ decPending.dec.src = decPendingAgain.dec.src ∧
      decPending.outLimit = decPendingAgain.outLimit ∧ ∃ t, Host.Core.run Sys2Proof.core (1 + 1) decPending = .next t :=
  ⟨witness_decStarting.1, witness_decStarting.2, rfl, rfl, ⟨_, rfl⟩⟩

theorem witness_EncRunForgetsThePast :
    encPending.encStarting ∧ encPendingAgain.encStarting ∧ encPending.enc.inMem = encPendingAgain.enc.inMem ∧
      encPending.enc.len = encPendingAgain.enc.len ∧ encPending.padMode = encPendingAgain.padMode ∧
      Memory.wf Space.items.unlisted Config.itemsSize encPending.enc.tp.items ∧
      Memory.wf Space.items.unlisted Config.itemsSize encPendingAgain.enc.tp.items ∧
      ∃ t, Host.Core.run Sys2Proof.core (0 + 1) encPending = .next t :=
  ⟨witness_encStarting.1, witness_encStarting.2, rfl, rfl, rfl, by decide, by decide,
    ⟨{ encPending with start := false, enc := encPending.enc.startRun },
      by simp [Host.Core.run, core, step, encPending, startRun, State.reset, Enc.running]⟩⟩

theorem witness_StartCursorIsUnobservable :
    decStarted.op = .decompress ∧ decStarted.start = false ∧ (∃ d : Dec, decStarted.dec = d.startRun decStarted.outLimit) ∧
      1022 < 1023 ∧ ∃ t, Host.Core.run Sys2Proof.core 2 decStarted = .next t :=
  ⟨rfl, rfl, ⟨decPending.dec, rfl⟩, by decide, ⟨_, rfl⟩⟩

/-! ### The encoder -/

theorem witness_FirstThreePositionsHaveNoMatch : encFresh.p < 3 ∧ ({ encFresh with p := 2 } : Enc).p < 3 := by decide

theorem witness_SearchHasNoSideEffects :
    encFull.inMem = ({ encFresh with p := 8 } : Enc).inMem ∧ encFull.len = ({ encFresh with p := 8 } : Enc).len ∧
      encFull.p = ({ encFresh with p := 8 } : Enc).p ∧
      encFresh.mfSearch 63 = .ok encFresh.mfInit ∧ ∃ r, Enc.mfSearch 63 { encFresh with p := 3 } = .ok r :=
  ⟨rfl, rfl, rfl, rfl, ⟨_, rfl⟩⟩

/-- V-SRC-B at position 3, with the smallest capacity. -/
theorem witness_SearchIsTheClosedForm : 63 ≤ 63 ∧ ({ encFresh with p := 3 } : Enc).p < encFresh.len := by decide

theorem witness_ReturnedMatchIsInBounds :
    ({ encFresh with p := 3 } : Enc).p < encFresh.len ∧
      ∃ r, Enc.mfSearch 63 { encFresh with p := 3 } = .ok r ∧ r.mf.result = (3, 3) ∧ (3, 3) ≠ (0, 0) :=
  ⟨by decide, ⟨_, rfl, rfl, by decide⟩⟩

/-- V-SRC-B's input one position on: offset 4 has run 4, and offset 3 is smaller. -/
theorem witness_SmallestOffsetWinsTies :
    ({ encFresh with p := 4 } : Enc).p < encFresh.len ∧
      (∃ r, Enc.mfSearch 63 { encFresh with p := 4 } = .ok r ∧ r.mf.result = (4, 4) ∧ (4, 4) ≠ (0, 0)) ∧ 3 ≤ 3 ∧ 3 < 4 :=
  ⟨by decide, ⟨_, rfl, rfl, by decide⟩, by decide, by decide⟩

theorem witness_PutLiteralAppendsTheByte :
    encFresh.p < encFresh.len ∧ encFresh.tp.nbytes < 16 ∧ ({ encFresh.tp with nbytes := 15 } : Tp).nbytes < 16 := by decide

theorem witness_PutMatchAppendsTheToken :
    1023 ≤ 1023 ∧ 63 ≤ 63 ∧ ({ encFull.tp with nitems := 7, nbytes := 14 } : Tp).nitems ≤ 7 ∧
      ({ encFull.tp with nitems := 7, nbytes := 14 } : Tp).nbytes < 15 := by decide

theorem witness_FlushEmitsFlagByteThenItems :
    encFull.tp.nbytes ≤ 16 ∧ ({ encFull.tp with nbytes := 16 } : Tp).nbytes ≤ 16 := by decide

/-- Both clauses: input left, and none. -/
theorem witness_EncStepPutsOneItem :
    ((encAt encFresh).Inv ∧ (encAt encFresh).start = false ∧ (encAt encFresh).enc.state = .run ∧ encFresh.p < encFresh.len) ∧
    ∃ s : State, s.Inv ∧ s.start = false ∧ s.enc.state = .run ∧ s.enc.p = s.enc.len :=
  ⟨⟨witness_encFresh_inv, rfl, rfl, by decide⟩, ⟨encAt { encFresh with inMem := [], len := 0 },
    ⟨encInv_of (by decide) (by decide), witness_encFresh_inv.dec, by decide, by decide⟩,
    rfl, rfl, rfl⟩⟩

theorem witness_FinalFlushEmitsNoLoneFlagByte :
    (encFull.tp.nbytes ≤ 16 ∧ 0 < encFull.tp.nitems) ∧ (encFlushed.tp.nbytes ≤ 16 ∧ encFlushed.tp.nitems = 0) := by decide

/-- An open group, a full one, and an empty one. -/
theorem witness_NopFillStopsAtFullOrAligned :
    Memory.wf Space.items.unlisted Config.itemsSize encFull.tp.items ∧
    (encFull.tp.nitems ≤ 8 ∧ encFull.tp.nbytes ≤ 2 * encFull.tp.nitems ∧ 0 < encFull.tp.nitems) ∧
    (encFlushed.tp.nitems ≤ 8 ∧ encFlushed.tp.nbytes ≤ 2 * encFlushed.tp.nitems ∧ encFlushed.tp.nitems = 0) := by decide

/-- Either padding. -/
theorem witness_PaddedOutputIsAligned :
    ((encAt encFlushed).Inv ∧ (encAt encFlushed).start = false ∧ (encAt encFlushed).enc.state = .zeroPad) ∧
    ∃ s : State, s.Inv ∧ s.start = false ∧ s.enc.state = .templatePad :=
  ⟨⟨witness_encFlushed_inv, rfl, rfl⟩, ⟨encAt { encFlushed with state := .templatePad },
    ⟨encInv_of (by decide) (by decide), witness_encFresh_inv.dec, by decide, by decide⟩, rfl, rfl⟩⟩

theorem witness_SizeReportCountsEveryByte :
    (encAt encFlushed).Inv ∧ (encAt encFlushed).enc.running = true ∧
      ∃ t, step (encAt encFlushed) = .next t ∧ t.enc.state = .done :=
  ⟨witness_encFlushed_inv, rfl, ⟨_, rfl, rfl⟩⟩

/-! ### Whole runs -/

theorem witness_EncRunComputesEncode : ∃ s : State, s.encStarted := ⟨encAt encFresh, witness_encStarted⟩

theorem witness_DecRunComputesDecode : ∃ s : State, s.decStarting := ⟨decPending, witness_decStarting.1⟩

/-- The premises of each part: with a limit, without one in a mode other than `default`, without one in `default`. The
stream named is what V-SRC-B's table gives. -/
theorem witness_RoundTripRestoresTheInput :
    (encAt encFresh).encStarted ∧ (encAt encFresh).padMode = .default ∧
    (∃ u : State, u.decStarting ∧ u.dec.src = encFlushed.zeroPad.out ∧ u.outLimit = some (encAt encFresh).enc.len) ∧
    (∃ u : State, u.decStarting ∧ u.dec.src = encFlushed.zeroPad.out ∧ u.outLimit = none) ∧
    ∃ (s u : State), s.encStarted ∧ u.decStarting ∧ u.dec.src = encFlushed.out ∧ u.outLimit = none ∧ s.padMode ≠ .default :=
  ⟨witness_encStarted, rfl,
    ⟨{ decPending with outLimit := some 8, dec := { decPending.dec with src := encFlushed.zeroPad.out } }, ⟨rfl, rfl, rfl⟩,
      rfl, rfl⟩,
    ⟨{ decPending with dec := { decPending.dec with src := encFlushed.zeroPad.out } }, ⟨rfl, rfl, rfl⟩, rfl, rfl⟩,
    ⟨{ encAt encFresh with padMode := .noPad }, { decPending with dec := { decPending.dec with src := encFlushed.out } },
      ⟨rfl, rfl, ⟨{ encFresh with state := .idle }, rfl⟩, by decide, by decide⟩, ⟨rfl, rfl, rfl⟩, rfl, rfl, by decide⟩⟩

/-- Both clauses about a cut and a limit; that about left over flag bits is `witness_leftover_flag_bits`. -/
theorem witness_CutStreamsAndLimitsGivePrefixes :
    decPending.decStarting ∧ decPending.outLimit = none ∧
    (∃ (u : State) (rest : Bytes), u.decStarting ∧ u.outLimit = none ∧ u.dec.src = decPending.dec.src ++ rest ∧ rest ≠ []) ∧
    ∃ u : State, u.decStarting ∧ u.outLimit = some 12 ∧ u.dec.src = decPending.dec.src :=
  ⟨witness_decStarting.1, rfl,
    ⟨{ decPending with dec := { decPending.dec with src := decPending.dec.src ++ [0x80#8] } }, [0x80#8], ⟨rfl, rfl, rfl⟩,
      rfl, rfl, by decide⟩,
    ⟨{ decPending with outLimit := some 12 }, ⟨rfl, rfl, rfl⟩, rfl, rfl⟩⟩

/-- A DEC about to start on the given stream. -/
def decPendingOn (src : Bytes) : State := { decPending with dec := { decPending.dec with src := src } }

/-- The clause of `CutStreamsAndLimitsGivePrefixes` about flag bits that no item owns: V-TPR-13's group, whose five literals
reach to the end of the stream, under `07` and under `00`; the same group behind a full one of eight no-ops, cut inside its
last token (two of `CF`'s bits are owned: `COPY 3,3` and the half of a second token); and no item at all. -/
theorem witness_leftover_flag_bits :
    ((decPendingOn (0x07#8 :: [0x41#8, 0x42#8, 0x41#8, 0x42#8, 0x41#8])).decStarting ∧
      (∃ r, Host.Core.run Sys2Proof.core 1 (decPendingOn (0x07#8 :: [0x41#8, 0x42#8, 0x41#8, 0x42#8, 0x41#8])) = .next r ∧
        r.dec.state = .readFlagByte ∧ r.dec.ipos = 0) ∧
      5 ≤ 8 ∧ 5 ≤ firstItemsBytes 0x07#8 5 ∧ ∀ i, i < 5 → (0x07#8).getLsbD (7 - i) = (0x00#8).getLsbD (7 - i)) ∧
    (let pre : Bytes := 0xFF#8 :: List.replicate 16 0x00#8
      let post : Bytes := [0x0C#8, 0x03#8, 0x0C#8]
      (∃ r, Host.Core.run Sys2Proof.core 11 (decPendingOn (pre ++ 0xCF#8 :: post)) = .next r ∧
        r.dec.state = .readFlagByte ∧ r.dec.ipos = pre.length) ∧
      2 ≤ 8 ∧ post.length ≤ firstItemsBytes 0xCF#8 2 ∧ ∀ i, i < 2 → (0xCF#8).getLsbD (7 - i) = (0xC0#8).getLsbD (7 - i)) ∧
    (0 ≤ firstItemsBytes 0xFF#8 0 ∧ ∀ i, i < 0 → (0xFF#8).getLsbD (7 - i) = (0x00#8).getLsbD (7 - i)) :=
  ⟨⟨⟨rfl, rfl, rfl⟩, ⟨_, rfl, rfl, rfl⟩, by decide⟩, ⟨⟨_, rfl, rfl, rfl⟩, by decide⟩, by decide⟩

theorem witness_EveryRunReachesDone : (encAt encFresh).encStarted ∧ decPending.decStarting :=
  ⟨witness_encStarted, witness_decStarting.1⟩

end Sys2Proof.Tests
end

/-! ## One step of the machine as a step of one engine (00_scope.md R2, 10_state.md R10)

Each engine's step is a function of that engine and its own configuration alone; the inversion lemmas below say, for each
`OP`, all that a step answering a next state can have done. -/

namespace Sys2Proof.Machine

/-- What an instruction does to DEC, under the given `OUT_LIMIT` (30_encoding.md R68); `exec_eq_liftDec` ties it to `exec`. -/
def Dec.execItem (lim : Option Nat) (d : Dec) : Instr → Except Fault Dec
  | .flags f => .ok (d.loadFlags f)
  | .lit b => d.wrLit lim b
  | .nop off => .ok (d.latch off 0#6).wrNop
  | .copy off len => d.copyItem lim off len
  | .copy0 len => d.copyItem lim 0#10 len

theorem exec_eq_liftDec (i : Instr) (s : State) : exec i s = s.liftDec (s.dec.execItem s.outLimit i) := by
  cases i <;> rfl

/-- DEC's own step (43_token_parser.md R145); `decStep_eq_liftDec` ties it to `decStep`. -/
def Dec.itemStep (lim : Option Nat) (d : Dec) : Except Fault Dec :=
  match d.fetch with
  | .moved d1 => .ok d1
  | .item i d1 => d1.execItem lim i
  | .copying d1 => Dec.copyRun lim d1.rem d1

theorem State.liftDec_with_dec (s : State) (d : Dec) (r : Except Fault Dec) :
    State.liftDec { s with dec := d } r = s.liftDec r := by
  cases r <;> rfl

theorem decStep_eq_liftDec (s : State) : decStep s = s.liftDec (s.dec.itemStep s.outLimit) := by
  unfold decStep Dec.itemStep
  cases s.dec.fetch with
  | moved d => rfl
  | item i d => exact (exec_eq_liftDec i _).trans (s.liftDec_with_dec d _)
  | copying d => rfl

/-- A step that `OP` gives to ENC is a START that ENC may take, or a step of ENC. -/
theorem step_compress_eq_next {s t : State} (hop : s.op = .compress) :
    step s = .next t ↔
      (s.start = true ∧ s.enc.running = false ∧ s.enc.len ≤ Config.inCap ∧
        t = { s with start := false, enc := s.enc.startRun }) ∨
      (s.start = false ∧ ∃ e, s.enc.step Config.lookaheadCap s.padMode = .ok e ∧ t = { s with enc := e }) := by
  cases hs : s.start with
  | false => simp [step, hs, hop, encStep, State.liftEnc_eq_next]
  | true =>
    simp only [step, startRun, hs, hop, if_true]
    cases s.enc.running with
    | true => simp
    | false => by_cases hl : s.enc.len ≤ Config.inCap <;> simp [hl, eq_comm]

/-- A step that `OP` gives to DEC is a START that DEC may take, or a step of DEC. -/
theorem step_decompress_eq_next {s t : State} (hop : s.op = .decompress) :
    step s = .next t ↔
      (s.start = true ∧ s.dec.running = false ∧ t = { s with start := false, dec := s.dec.startRun s.outLimit }) ∨
      (s.start = false ∧ ∃ d, s.dec.itemStep s.outLimit = .ok d ∧ t = { s with dec := d }) := by
  cases hs : s.start with
  | false => simp [step, hs, hop, decStep_eq_liftDec, State.liftDec_eq_next]
  | true =>
    simp only [step, startRun, hs, hop, if_true]
    cases s.dec.running <;> simp [eq_comm]

/-- ENC's step leaves DEC as it is and does the same beside any other DEC (R2). -/
theorem step_compress_independent {s t : State} (hop : s.op = .compress) (h : step s = .next t) :
    t.dec = s.dec ∧ ∀ d : Dec, step { s with dec := d } = .next { t with dec := d } := by
  obtain ⟨hs, hr, hl, rfl⟩ | ⟨hs, e, he, rfl⟩ := (step_compress_eq_next hop).1 h
  · exact ⟨rfl, fun d => (step_compress_eq_next (s := { s with dec := d }) hop).2 (.inl ⟨hs, hr, hl, rfl⟩)⟩
  · exact ⟨rfl, fun d => (step_compress_eq_next (s := { s with dec := d }) hop).2 (.inr ⟨hs, e, he, rfl⟩)⟩

/-- DEC's step leaves ENC as it is and does the same beside any other ENC (R2). -/
theorem step_decompress_independent {s t : State} (hop : s.op = .decompress) (h : step s = .next t) :
    t.enc = s.enc ∧ ∀ e : Enc, step { s with enc := e } = .next { t with enc := e } := by
  obtain ⟨hs, hr, rfl⟩ | ⟨hs, d, hd, rfl⟩ := (step_decompress_eq_next hop).1 h
  · exact ⟨rfl, fun e => (step_decompress_eq_next (s := { s with enc := e }) hop).2 (.inl ⟨hs, hr, rfl⟩)⟩
  · exact ⟨rfl, fun e => (step_decompress_eq_next (s := { s with enc := e }) hop).2 (.inr ⟨hs, d, hd, rfl⟩)⟩

/-- Settles O31: what a step of either engine asks and writes, START included, names that engine's registers and the
configuration only. -/
theorem enginesShareNoState : Obligations.EnginesShareNoState := fun _ _ h =>
  ⟨fun hop => step_compress_independent hop h, fun hop => step_decompress_independent hop h⟩

end Sys2Proof.Machine

/-! ## A relation between two machines along a run -/

namespace Sys2Proof.Machine

/-- A run of `n + 1` steps is a step and a run of `n`. -/
theorem run_succ_eq_next (M : Host.Core) {n : Nat} {s t : M.State} :
    M.run (n + 1) s = .next t ↔ ∃ u, M.step s = .next u ∧ M.run n u = .next t := by
  rw [Host.Core.run]
  cases M.step s <;> simp

/-- A relation that one step keeps, the second machine answering whenever the first does, is kept by `n` steps. -/
theorem run_keeps_relation {R : State → State → Prop}
    (hstep : ∀ {s t s'}, R s t → step s = .next s' → ∃ t', step t = .next t' ∧ R s' t') {n : Nat} {s t s' : State}
    (h : R s t) (hrun : Host.Core.run core n s = .next s') :
    ∃ t', Host.Core.run core n t = .next t' ∧ R s' t' := by
  induction n generalizing s t with
  | zero => cases hrun; exact ⟨t, rfl, h⟩
  | succ n ih =>
    obtain ⟨u, hu, hrun⟩ := (run_succ_eq_next core).1 hrun
    obtain ⟨v, hv, huv⟩ := hstep h hu
    obtain ⟨t', ht', hR⟩ := ih huv hrun
    exact ⟨t', (run_succ_eq_next core).2 ⟨v, hv, ht'⟩, hR⟩

end Sys2Proof.Machine

/-! ## What a DEC run depends on (10_state.md R28)

A start leaves `FLG`, the token latches and the copy registers as they were. Between two items the parser reads none of them
but `FLG` in `Dispatch`, and every item writes those it reads before it reads them. -/

namespace Sys2Proof.Machine

/-- `d` with the registers that a start does not write (R28, R222) taken from `c`. -/
def Dec.withScratch (c d : Dec) : Dec :=
  { d with
    flg := c.flg, b1 := c.b1, off := c.off, len := c.len, srcp := c.srcp, dstp := c.dstp, rem := c.rem, stg := c.stg }

/-- Two DECs between items that agree on all that the rest of the run reads. -/
def Dec.SameRun (d d' : Dec) : Prop :=
  (d.state = .readFlagByte ∨ d.state = .dispatch ∨ d.state = .done) ∧
    ∃ c : Dec, d' = c.withScratch d ∧ (d.state = .dispatch → c.flg = d.flg)

theorem Dec.SameRun.refl {d : Dec} (h : d.state = .readFlagByte ∨ d.state = .dispatch ∨ d.state = .done) : d.SameRun d :=
  ⟨h, d, rfl, fun _ => rfl⟩

theorem Dec.limitTest_state (lim : Option Nat) (d : Dec) :
    (Dec.limitTest lim d).state = d.state ∨ (Dec.limitTest lim d).state = .done := by
  unfold Dec.limitTest
  split
  · exact .inr rfl
  · exact .inl rfl

/-- `WriteWin` changes the window alone. -/
theorem Dec.writeWin_eq_ok {d r : Dec} {a : Nat} {v : Byte} (h : d.writeWin a v = .ok r) :
    a < 1023 ∧ r = { d with win := Memory.write Space.win.unlisted d.win a v } := by
  by_cases ha : a < 1023
  · rw [d.writeWin_eq v ha] at h; cases h; exact ⟨ha, rfl⟩
  · simp [Dec.writeWin, memWrite, ha] at h

theorem Dec.copyByte_state {d r : Dec} (h : d.copyByte = .ok r) : r.state = d.state := by
  unfold Dec.copyByte at h
  split at h
  · cases h
  · split at h
    · cases h
    · next hw => obtain ⟨-, rfl⟩ := Dec.writeWin_eq_ok hw; cases h; rfl

theorem Dec.copyStep_state {lim : Option Nat} {d r : Dec} (hs : d.state = .copy) (h : d.copyStep lim = .ok r) :
    r.state = .copy ∨ r.state = .dispatch ∨ r.state = .done := by
  unfold Dec.copyStep at h
  split at h
  · cases h
  · split at h
    · cases h
    · next d1 hb =>
      cases h
      have hd1 : (if d.rem = 1 then d1.copyEnd else d1).state = .copy ∨
          (if d.rem = 1 then d1.copyEnd else d1).state = .dispatch := by
        split
        · exact .inr rfl
        · exact .inl ((Dec.copyByte_state hb).trans hs)
      rcases Dec.limitTest_state lim (if d.rem = 1 then d1.copyEnd else d1) with he | he
      · rw [he]; exact hd1.imp_right .inl
      · exact .inr (.inr he)

/-- A copy that has run ends in `Dispatch`, or in `Done` at the limit. -/
theorem Dec.copyRun_state {lim : Option Nat} {n : Nat} {d r : Dec} (hs : d.state = .copy)
    (h : Dec.copyRun lim n d = .ok r) : r.state = .dispatch ∨ r.state = .done := by
  induction n generalizing d with
  | zero => cases h
  | succ n ih =>
    rw [Dec.copyRun] at h
    split at h
    · cases h
    · next d1 hd1 =>
      split at h
      · next hc => exact ih hc h
      · next hc =>
        cases h
        exact (Dec.copyStep_state hs hd1).resolve_left hc

/-- A copy writes every latch and copy register before it reads it. -/
theorem Dec.copyItem_withScratch (lim : Option Nat) (off : BitVec 10) (len : BitVec 6) {c d : Dec}
    (hf : c.flg = d.flg) (hb : c.b1 = d.b1) :
    (c.withScratch d).copyItem lim off len = d.copyItem lim off len := by
  unfold Dec.copyItem
  cases hn : len.toNat with
  | zero => rfl
  | succ n =>
    have hstep : ((c.withScratch d).latch off len).copyStart.copyStep lim = (d.latch off len).copyStart.copyStep lim := by
      simp only [Dec.withScratch, hf, hb]
      rfl
    simp only [Dec.copyRun, hstep]

theorem Dec.cur_lt_of_wrLit_eq_ok {lim : Option Nat} {b : Byte} {d r : Dec} (h : d.wrLit lim b = .ok r) :
    d.cur < 1023 := by
  unfold Dec.wrLit at h
  split at h
  · next hw => exact (Dec.writeWin_eq_ok hw).1
  · cases h

theorem Dec.wrLit_sameRun {lim : Option Nat} {b : Byte} {c d r : Dec} (hf : c.flg = d.flg) (h : d.wrLit lim b = .ok r) :
    ∃ r', (c.withScratch d).wrLit lim b = .ok r' ∧ r.SameRun r' := by
  have hc := Dec.cur_lt_of_wrLit_eq_ok h
  rw [d.wrLit_eq lim b hc] at h
  cases h
  refine ⟨_, Dec.wrLit_eq lim b (c.withScratch d) hc, ?_, c, rfl, fun _ => hf⟩
  dsimp only
  split
  · exact .inr (.inr rfl)
  · exact .inr (.inl rfl)

theorem Dec.copyItem_sameRun {lim : Option Nat} {off : BitVec 10} {len : BitVec 6} {c d r : Dec}
    (hf : c.flg = d.flg) (hb : c.b1 = d.b1) (h : d.copyItem lim off len = .ok r) :
    ∃ r', (c.withScratch d).copyItem lim off len = .ok r' ∧ r.SameRun r' :=
  ⟨r, (Dec.copyItem_withScratch lim off len hf hb).trans h, .refl (.inr (Dec.copyRun_state rfl h))⟩

/-- A token, whose fetch latched byte1 in both. -/
theorem Dec.execToken_sameRun {lim : Option Nat} {b1 b2 : Byte} {c d r : Dec} (hf : c.flg = d.flg) (hb : c.b1 = d.b1)
    (h : d.execItem lim (decodeToken b1 b2) = .ok r) :
    ∃ r', (c.withScratch d).execItem lim (decodeToken b1 b2) = .ok r' ∧ r.SameRun r' := by
  obtain ⟨-, hi⟩ | ⟨-, -, hi⟩ | ⟨-, -, hi⟩ := decodeToken_cases b1 b2 <;> rw [hi] at h ⊢
  · cases h
    exact ⟨_, rfl, .inr (.inl rfl), c.latch (unpackOffset b1 b2) 0#6, rfl, fun _ => hf⟩
  · exact Dec.copyItem_sameRun hf hb h
  · exact Dec.copyItem_sameRun hf hb h

theorem Dec.srcNext_withScratch (c d : Dec) :
    (c.withScratch d).srcNext = d.srcNext.map fun x => (x.1, c.withScratch x.2) := by
  have hsrc : (c.withScratch d).src[(c.withScratch d).ipos]? = d.src[d.ipos]? := rfl
  rw [Dec.srcNext, Dec.srcNext, hsrc]
  cases d.src[d.ipos]? <;> rfl

/-- What follows a fetch; `itemStep_eq_perform` ties it to DEC's step. -/
def Fetched.perform (lim : Option Nat) : Fetched → Except Fault Dec
  | .moved d => .ok d
  | .item i d => d.execItem lim i
  | .copying d => Dec.copyRun lim d.rem d

theorem Dec.itemStep_eq_perform (lim : Option Nat) (d : Dec) : d.itemStep lim = d.fetch.perform lim := by
  unfold Dec.itemStep
  cases d.fetch <;> rfl

/-- What each fetch of the parser does with the byte it needs (R137, R139, R140): at `EOF` the run ends. -/
def Dec.readNext (k : Byte → Dec → Fetched) (d : Dec) : Fetched :=
  match d.srcNext with
  | none => .moved d.stop
  | some (b, d1) => k b d1

theorem Dec.fetchHeader_eq_readNext (d : Dec) : d.fetchHeader = d.readNext fun f d1 => .item (.flags f) d1 := rfl

theorem Dec.fetchLiteral_eq_readNext (d : Dec) : d.fetchLiteral = d.readNext fun b d1 => .item (.lit b) d1 := rfl

theorem Dec.fetchToken2_eq_readNext (d : Dec) :
    d.fetchToken2 = d.readNext fun b d1 => .item (decodeToken d1.b1 b) d1 := rfl

theorem Dec.fetchToken1_eq_readNext (d : Dec) :
    d.fetchToken1 = d.readNext fun b d1 => Dec.fetchToken2 { d1 with b1 := b, state := .readToken2 } := rfl

/-- The next byte is the same in both runs, and so is the end of the stream. -/
theorem Dec.readNext_sameRun {lim : Option Nat} {k : Byte → Dec → Fetched} {c d r : Dec}
    (hk : ∀ b, (k b { d with ipos := d.ipos + 1 }).perform lim = .ok r →
      ∃ r', (k b (c.withScratch { d with ipos := d.ipos + 1 })).perform lim = .ok r' ∧ r.SameRun r')
    (hr : (d.readNext k).perform lim = .ok r) :
    ∃ r', ((c.withScratch d).readNext k).perform lim = .ok r' ∧ r.SameRun r' := by
  rw [Dec.readNext, Dec.srcNext_withScratch]
  rw [Dec.readNext] at hr
  obtain ⟨hn, -⟩ | ⟨b, hn, -⟩ := d.srcNext_cases <;> rw [hn] at hr ⊢
  · cases hr
    exact ⟨_, rfl, .inr (.inr rfl), c, rfl, nofun⟩
  · exact hk b hr

theorem Dec.fetchHeader_sameRun {lim : Option Nat} {d r : Dec} (c : Dec) (hr : d.fetchHeader.perform lim = .ok r) :
    ∃ r', (c.withScratch d).fetchHeader.perform lim = .ok r' ∧ r.SameRun r' := by
  rw [Dec.fetchHeader_eq_readNext] at hr ⊢
  refine Dec.readNext_sameRun (fun f hr => ?_) hr
  cases hr
  exact ⟨_, rfl, .inr (.inl rfl), { c with flg := f }, rfl, fun _ => rfl⟩

theorem Dec.fetchLiteral_sameRun {lim : Option Nat} {c d r : Dec} (hf : c.flg = d.flg)
    (hr : d.fetchLiteral.perform lim = .ok r) :
    ∃ r', (c.withScratch d).fetchLiteral.perform lim = .ok r' ∧ r.SameRun r' := by
  rw [Dec.fetchLiteral_eq_readNext] at hr ⊢
  exact Dec.readNext_sameRun (fun _ hr => Dec.wrLit_sameRun hf hr) hr

theorem Dec.fetchToken2_sameRun {lim : Option Nat} {c d r : Dec} (hf : c.flg = d.flg) (hb : c.b1 = d.b1)
    (hr : d.fetchToken2.perform lim = .ok r) :
    ∃ r', (c.withScratch d).fetchToken2.perform lim = .ok r' ∧ r.SameRun r' := by
  rw [Dec.fetchToken2_eq_readNext] at hr ⊢
  refine Dec.readNext_sameRun (fun b2 hr => ?_) hr
  change ∃ r', Dec.execItem lim (c.withScratch _) (decodeToken c.b1 b2) = .ok r' ∧ _
  rw [hb]
  exact Dec.execToken_sameRun (d := { d with ipos := d.ipos + 1 }) hf hb hr

theorem Dec.fetchToken1_sameRun {lim : Option Nat} {c d r : Dec} (hf : c.flg = d.flg)
    (hr : d.fetchToken1.perform lim = .ok r) :
    ∃ r', (c.withScratch d).fetchToken1.perform lim = .ok r' ∧ r.SameRun r' := by
  rw [Dec.fetchToken1_eq_readNext] at hr ⊢
  exact Dec.readNext_sameRun (fun b1 hr => Dec.fetchToken2_sameRun (c := { c with b1 := b1 })
    (d := { d with ipos := d.ipos + 1, b1 := b1, state := .readToken2 }) hf rfl hr) hr

/-- `TPR.SHIFT` reads `FLG` and no other register of the scratch. -/
theorem Dec.shift_withScratch {c d : Dec} (hf : c.flg = d.flg) :
    (c.withScratch d).shift = ({ c with flg := d.shift.flg } : Dec).withScratch d.shift := by
  simp only [Dec.shift, Dec.withScratch, hf]
  split <;> rfl

theorem Dec.fetchItem_sameRun {lim : Option Nat} {c d r : Dec} (hf : c.flg = d.flg)
    (hr : d.fetchItem.perform lim = .ok r) :
    ∃ r', (c.withScratch d).fetchItem.perform lim = .ok r' ∧ r.SameRun r' := by
  have hbit : flgBit (c.withScratch d).flg = flgBit d.flg := congrArg flgBit hf
  have hcnt : (c.withScratch d).fcnt = d.fcnt := rfl
  rw [Dec.fetchItem, hbit, hcnt, Dec.shift_withScratch hf]
  rw [Dec.fetchItem] at hr
  by_cases h0 : d.fcnt = 0
  · rw [if_pos h0] at hr ⊢
    cases hr
    exact ⟨_, rfl, .inl (by simp [Dec.shift, h0]), _, rfl, fun _ => rfl⟩
  rw [if_neg h0] at hr ⊢
  by_cases hb : flgBit d.flg = true
  · rw [if_pos hb] at hr ⊢
    exact Dec.fetchToken1_sameRun rfl hr
  · rw [if_neg hb] at hr ⊢
    exact Dec.fetchLiteral_sameRun rfl hr

/-- One step of DEC from between two items (R145). -/
theorem Dec.itemStep_sameRun {lim : Option Nat} {d d' r : Dec} (h : d.SameRun d') (hr : d.itemStep lim = .ok r) :
    ∃ r', d'.itemStep lim = .ok r' ∧ r.SameRun r' := by
  obtain ⟨hs, c, rfl, hf⟩ := h
  have hs' : (c.withScratch d).state = d.state := rfl
  rw [Dec.itemStep_eq_perform, Dec.fetch] at hr ⊢
  rw [hs']
  obtain hs | hs | hs := hs <;> rw [hs] at hr ⊢
  · exact Dec.fetchHeader_sameRun c hr
  · exact Dec.fetchItem_sameRun (hf hs) hr
  · cases hr
    exact ⟨_, rfl, .inr (.inr hs), c, rfl, hf⟩

/-- A start writes all that `SameRun` asks for. -/
theorem Dec.startRun_sameRun {lim : Option Nat} {d d' : Dec} (h : d.src = d'.src) :
    (d.startRun lim).SameRun (d'.startRun lim) := by
  refine ⟨?_, d', ?_, ?_⟩
  · rw [Dec.startRun_state]
    split
    · exact .inr (.inr rfl)
    · exact .inl rfl
  · simp only [Dec.startRun, Dec.withScratch, h]
  · rw [Dec.startRun_state]
    split <;> exact nofun

/-- DEC is selected, nothing is pending, and the two machines agree on the rest of the run. -/
structure State.SameDecRun (s t : State) : Prop where
  op : s.op = .decompress ∧ t.op = .decompress
  start : s.start = false ∧ t.start = false
  outLimit : s.outLimit = t.outLimit
  dec : s.dec.SameRun t.dec

theorem step_sameDecRun {s t s' : State} (h : s.SameDecRun t) (hstep : step s = .next s') :
    ∃ t', step t = .next t' ∧ s'.SameDecRun t' := by
  obtain ⟨hop, hstart, hlim, hd⟩ := h
  obtain ⟨hs, -⟩ | ⟨-, d, hds, rfl⟩ := (step_decompress_eq_next hop.1).1 hstep
  · simp [hstart.1] at hs
  · obtain ⟨d', hd', hr⟩ := Dec.itemStep_sameRun hd hds
    exact ⟨{ t with dec := d' }, (step_decompress_eq_next hop.2).2 (.inr ⟨hstart.2, d', hlim ▸ hd', rfl⟩),
      hop, hstart, hlim, hr⟩

/-- What two starts with the same `SRC` and `OUT_LIMIT` leave. -/
theorem step_start_sameDecRun {s t u : State} (hs : s.decStarting) (ht : t.decStarting) (hsrc : s.dec.src = t.dec.src)
    (hlim : s.outLimit = t.outLimit) (hstep : step s = .next u) : ∃ v, step t = .next v ∧ u.SameDecRun v := by
  obtain ⟨hop1, hstart1, -⟩ := hs
  obtain ⟨hop2, hstart2, hidle2⟩ := ht
  obtain ⟨-, -, rfl⟩ | ⟨h, -⟩ := (step_decompress_eq_next hop1).1 hstep
  · exact ⟨_, (step_decompress_eq_next hop2).2 (.inl ⟨hstart2, hidle2, rfl⟩), ⟨hop1, hop2⟩, ⟨rfl, rfl⟩, hlim,
      hlim ▸ Dec.startRun_sameRun hsrc⟩
  · simp [hstart1] at h

/-- Settles O38: a start makes the two machines agree on all that a DEC run reads, and every step keeps that. -/
theorem decRunForgetsThePast : Obligations.DecRunForgetsThePast := by
  intro s1 s2 h1 h2 hsrc hlim n t1 hrun
  obtain ⟨u1, hu1, hrun⟩ := (run_succ_eq_next core).1 hrun
  obtain ⟨u2, hu2, hsame⟩ := step_start_sameDecRun h1 h2 hsrc hlim hu1
  obtain ⟨t2, ht2, hsame'⟩ := run_keeps_relation step_sameDecRun hsame hrun
  obtain ⟨-, c, hc, -⟩ := hsame'.dec
  exact ⟨t2, (run_succ_eq_next core).2 ⟨u2, hu2, ht2⟩, by rw [hc]; exact ⟨rfl, rfl, rfl, rfl⟩⟩

end Sys2Proof.Machine

/-! ## The invariant of DEC (10_state.md R30)

`Dec.Inv.parser` covers every move of the parser, `Dec.Inv.limitTest` the test after an `Emit`; what is left of each operation
is what it does to the window and the copy registers. -/

namespace Sys2Proof.Machine

variable {lim : Option Nat} {d r : Dec}

/-- An engine that is not running owes nothing to its limit: the host may set another one (10_state.md R11). -/
theorem Dec.Inv.setLimit (h : d.Inv lim) (hr : d.running = false) (lim' : Option Nat) : d.Inv lim' :=
  { h with belowLimit := fun hr' => by simp [hr] at hr' }

/-- The host supplies another `SRC` (R227). -/
theorem Dec.Inv.setSrc (h : d.Inv lim) (hr : d.running = false) (bs : Bytes) : ({ d with src := bs } : Dec).Inv lim :=
  { h with ipos := fun hr' => absurd hr' (by simpa [Dec.running] using hr) }

/-- `DEC.START` (43_token_parser.md R136). -/
theorem Dec.Inv.startRun (h : d.Inv lim) : (d.startRun lim).Inv lim where
  winWf := Memory.nil_wf _ _
  cur := by simp
  srcp := h.srcp
  dstp := h.dstp
  rem := h.rem
  fcnt := by simp
  ocnt := rfl
  ipos := fun _ => Nat.zero_le _
  belowLimit := fun hr n hn => by
    subst hn
    by_contra h0
    obtain rfl : n = 0 := by simpa using h0
    simp [Dec.running] at hr
  copying := fun hs => by
    rw [Dec.startRun_state] at hs
    split at hs <;> cases hs
  history := fun _ k h1 _ => history_start _ k h1

/-- `stop(Done)` (43_token_parser.md R142). -/
theorem Dec.Inv.stop (h : d.Inv lim) (lim' : Option Nat) : d.stop.Inv lim' :=
  { h with
    ipos := nofun
    belowLimit := nofun
    copying := nofun
    history := nofun }

/-- The OUT_LIMIT test after an `Emit` that has not gone past the limit (43_token_parser.md R143). -/
theorem Dec.Inv.limitTest (h : d.Inv none) (hle : ∀ n, lim = some n → d.ocnt ≤ n) : (Dec.limitTest lim d).Inv lim := by
  unfold Dec.limitTest
  split
  · exact h.stop lim
  · next hat =>
    refine { h with belowLimit := fun _ n hn => ?_ }
    have hne : d.ocnt ≠ n := by
      rintro rfl
      simp [Dec.atLimit, hn] at hat
    exact lt_of_le_of_ne (hle n hn) hne

/-- The parser, in a run and outside a copy, moves on in the stream and sets its own registers. -/
theorem Dec.Inv.parser (h : d.Inv lim) (hr : d.running = true) (hs : d.state ≠ .copy) {st : DecState} {ipos fcnt : Nat}
    {flg b1 : Byte} {off : BitVec 10} {len : BitVec 6} (hst : st ≠ .copy) (hipos : ipos ≤ d.src.length)
    (hfcnt : fcnt ≤ 8) :
    ({ d with state := st, ipos := ipos, fcnt := fcnt, flg := flg, b1 := b1, off := off, len := len } : Dec).Inv lim :=
  { h with
    fcnt := hfcnt
    ipos := fun _ => hipos
    belowLimit := fun _ => h.belowLimit hr
    copying := fun hc => absurd hc hst
    history := fun _ k h1 h2 => by
      have := h.history hr k h1 h2
      simpa [Dec.writeIndex, hs, hst] using this }

/-! ### The items -/

theorem Dec.Inv.loadFlags (h : d.Inv lim) (hr : d.running = true) (hs : d.state ≠ .copy) (f : Byte) :
    (d.loadFlags f).Inv lim :=
  h.parser hr hs nofun (h.ipos hr) le_rfl

theorem Dec.Inv.nop (h : d.Inv lim) (hr : d.running = true) (hs : d.state ≠ .copy) (off : BitVec 10) (len : BitVec 6) :
    (d.latch off len).wrNop.Inv lim :=
  h.parser hr hs nofun (h.ipos hr) h.fcnt

/-- `WR.LIT(b)` (44_window_reconstructor.md R156). -/
theorem Dec.Inv.wrLit (h : d.Inv lim) (hr : d.running = true) (hs : d.state ≠ .copy) {b : Byte}
    (hok : d.wrLit lim b = .ok r) : r.Inv lim := by
  rw [Dec.wrLit, Dec.writeWin_eq _ _ h.cur] at hok
  cases hok
  refine Dec.Inv.limitTest ?_ fun n hn => h.belowLimit hr n hn
  exact
    { h with
      winWf := Memory.write_wf h.winWf h.cur
      cur := windowNext_lt h.cur
      ocnt := by simp [h.ocnt]
      ipos := fun _ => h.ipos hr
      belowLimit := nofun
      copying := nofun
      history := fun _ => history_emit b h.cur h.winWf fun k h1 h2 => by
        have := h.history hr k h1 h2
        simpa [Dec.writeIndex, hs] using this }

/-- One byte of a copy, and the end of the copy after the last one (R159, R160). -/
theorem Dec.Inv.copyStep (h : d.Inv lim) (hs : d.state = .copy) (hok : d.copyStep lim = .ok r) : r.Inv lim := by
  obtain ⟨hrem, hlen, hdst, hsrc⟩ := h.copying hs
  have hr : d.running = true := by simp [Dec.running, hs]
  have hlen63 : d.len.toNat ≤ 63 := Nat.le_of_lt_succ d.len.isLt
  have hoff : d.off.toNat ≤ 1023 := Nat.le_of_lt_succ d.off.isLt
  have hnext : windowNext d.dstp = windowAt d.cur (d.len.toNat - d.rem + 1) := by rw [hdst, windowNext_windowAt]
  have hhist := history_emit (Memory.read Space.win.unlisted d.win d.srcp) h.dstp h.winWf
    fun k h1 h2 => by simpa [Dec.writeIndex, hs] using h.history hr k h1 h2
  rw [Dec.copyStep, if_neg (by omega), d.copyByte_eq h.srcp h.dstp] at hok
  cases hok
  by_cases hlast : d.rem = 1
  · rw [if_pos hlast]
    have hcur : windowAdvance d.cur d.len.toNat = windowNext d.dstp := by
      rw [hnext, windowAdvance_eq h.cur hlen63, show d.len.toNat - d.rem + 1 = d.len.toNat by omega]
    refine Dec.Inv.limitTest ?_ fun n hn => h.belowLimit hr n hn
    exact
      { winWf := Memory.write_wf h.winWf h.dstp
        cur := hcur ▸ windowNext_lt h.dstp
        srcp := windowNext_lt h.srcp
        dstp := windowNext_lt h.dstp
        rem := (Nat.sub_le _ _).trans h.rem
        fcnt := h.fcnt
        ocnt := by simp [h.ocnt]
        ipos := fun _ => h.ipos hr
        belowLimit := nofun
        copying := nofun
        history := fun _ => hcur ▸ hhist }
  · rw [if_neg hlast]
    refine Dec.Inv.limitTest ?_ fun n hn => h.belowLimit hr n hn
    exact
      { winWf := Memory.write_wf h.winWf h.dstp
        cur := h.cur
        srcp := windowNext_lt h.srcp
        dstp := windowNext_lt h.dstp
        rem := (Nat.sub_le _ _).trans h.rem
        fcnt := h.fcnt
        ocnt := by simp [h.ocnt]
        ipos := fun _ => h.ipos hr
        belowLimit := nofun
        copying := fun _ => by
          refine ⟨by simp only; omega, by simp only; omega, ?_, ?_⟩
          · simp only
            rw [hnext]; congr 1; omega
          · simp only
            rw [hsrc, windowNext_windowSlot h.dstp hoff]
        history := fun _ => by simpa [Dec.writeIndex, hs] using hhist }

theorem Dec.Inv.copyRun {n : Nat} (h : d.Inv lim) (hs : d.state = .copy) (hok : Dec.copyRun lim n d = .ok r) :
    r.Inv lim := by
  induction n generalizing d with
  | zero => cases hok
  | succ n ih =>
    rw [Dec.copyRun] at hok
    split at hok
    · cases hok
    · next d1 hd1 =>
      split at hok
      · next hc => exact ih (h.copyStep hs hd1) hc hok
      · cases hok; exact h.copyStep hs hd1

/-- `WR.COPY_START` on latches with bytes to copy (R158). -/
theorem Dec.Inv.copyStart (h : d.Inv lim) (hr : d.running = true) (hs : d.state ≠ .copy) {off : BitVec 10}
    {len : BitVec 6} (hlen : 1 ≤ len.toNat) : (d.latch off len).copyStart.Inv lim :=
  { h with
    srcp := windowSlot_lt h.cur (Nat.le_of_lt_succ off.isLt)
    dstp := h.cur
    rem := Nat.le_of_lt_succ len.isLt
    ipos := fun _ => h.ipos hr
    belowLimit := fun _ => h.belowLimit hr
    copying := fun _ => ⟨hlen, le_rfl, by simp [windowAt_zero h.cur], rfl⟩
    history := fun _ k h1 h2 => by
      have := h.history hr k h1 h2
      simpa [Dec.writeIndex, hs] using this }

theorem Dec.Inv.copyItem (h : d.Inv lim) (hr : d.running = true) (hs : d.state ≠ .copy) {off : BitVec 10} {len : BitVec 6}
    (hok : d.copyItem lim off len = .ok r) : r.Inv lim := by
  rw [Dec.copyItem] at hok
  obtain h0 | hlen := Nat.eq_zero_or_pos len.toNat
  · rw [h0] at hok; cases hok
  · exact (h.copyStart hr hs hlen).copyRun rfl hok

theorem Dec.Inv.execItem (h : d.Inv lim) (hr : d.running = true) (hs : d.state ≠ .copy) {i : Instr}
    (hok : d.execItem lim i = .ok r) : r.Inv lim := by
  cases i with
  | flags f => cases hok; exact h.loadFlags hr hs f
  | lit b => exact h.wrLit hr hs hok
  | nop off => cases hok; exact h.nop hr hs off 0#6
  | copy off len => exact h.copyItem hr hs hok
  | copy0 len => exact h.copyItem hr hs hok

/-! ### The parser's fetches, each with the item it finds -/

/-- A fetch that goes on with the next byte, if there is one. -/
theorem Dec.Inv.readNext (h : d.Inv lim) (hr : d.running = true) (hs : d.state ≠ .copy) {k : Byte → Dec → Fetched}
    (hok : (d.readNext k).perform lim = .ok r)
    (hk : ∀ b d1, d1.Inv lim → d1.running = true → d1.state ≠ .copy → (k b d1).perform lim = .ok r → r.Inv lim) :
    r.Inv lim := by
  rw [Dec.readNext] at hok
  obtain ⟨hn, -⟩ | ⟨b, hn, -, hlt⟩ := d.srcNext_cases <;> rw [hn] at hok
  · cases hok
    exact h.stop lim
  · exact hk b _ (h.parser hr hs hs hlt h.fcnt) hr hs hok

/-- A fetch whose next byte completes an item. -/
theorem Dec.Inv.readNextItem (h : d.Inv lim) (hr : d.running = true) (hs : d.state ≠ .copy) {i : Byte → Dec → Instr}
    (hok : (d.readNext fun b d1 => .item (i b d1) d1).perform lim = .ok r) : r.Inv lim :=
  h.readNext hr hs hok fun b d1 h1 hr1 hs1 hok => h1.execItem (i := i b d1) hr1 hs1 hok

theorem Dec.Inv.fetchHeader (h : d.Inv lim) (hr : d.running = true) (hs : d.state ≠ .copy)
    (hok : d.fetchHeader.perform lim = .ok r) : r.Inv lim := by
  rw [Dec.fetchHeader_eq_readNext] at hok
  exact h.readNextItem hr hs hok

theorem Dec.Inv.fetchLiteral (h : d.Inv lim) (hr : d.running = true) (hs : d.state ≠ .copy)
    (hok : d.fetchLiteral.perform lim = .ok r) : r.Inv lim := by
  rw [Dec.fetchLiteral_eq_readNext] at hok
  exact h.readNextItem hr hs hok

theorem Dec.Inv.fetchToken2 (h : d.Inv lim) (hr : d.running = true) (hs : d.state ≠ .copy)
    (hok : d.fetchToken2.perform lim = .ok r) : r.Inv lim := by
  rw [Dec.fetchToken2_eq_readNext] at hok
  exact h.readNextItem hr hs hok

theorem Dec.Inv.fetchToken1 (h : d.Inv lim) (hr : d.running = true) (hs : d.state ≠ .copy)
    (hok : d.fetchToken1.perform lim = .ok r) : r.Inv lim := by
  rw [Dec.fetchToken1_eq_readNext] at hok
  refine h.readNext hr hs hok fun b d1 h1 hr1 hs1 hok => ?_
  have h2 : ({ d1 with b1 := b, state := .readToken2 } : Dec).Inv lim :=
    h1.parser hr1 hs1 nofun (h1.ipos hr1) h1.fcnt
  exact h2.fetchToken2 rfl nofun hok

/-- `TPR.SHIFT` (43_token_parser.md R138). -/
theorem Dec.Inv.shift (h : d.Inv lim) (hr : d.running = true) (hs : d.state ≠ .copy) :
    d.shift.Inv lim ∧ d.shift.running = true ∧ d.shift.state ≠ .copy := by
  unfold Dec.shift
  split
  · exact ⟨h.parser hr hs nofun (h.ipos hr) h.fcnt, rfl, nofun⟩
  · have hst {p : Prop} [Decidable p] : (if p then DecState.readToken1 else .readLiteral) ≠ .copy := by split <;> nofun
    refine ⟨h.parser hr hs hst (h.ipos hr) ((Nat.sub_le _ _).trans h.fcnt), ?_, hst⟩
    cases hb : flgBit d.flg <;> rfl

theorem Dec.Inv.fetchItem (h : d.Inv lim) (hr : d.running = true) (hs : d.state ≠ .copy)
    (hok : d.fetchItem.perform lim = .ok r) : r.Inv lim := by
  obtain ⟨h1, hr1, hs1⟩ := h.shift hr hs
  rw [Dec.fetchItem] at hok
  split at hok
  · cases hok; exact h1
  · split at hok
    · exact h1.fetchToken1 hr1 hs1 hok
    · exact h1.fetchLiteral hr1 hs1 hok

/-- Every step of DEC keeps its invariant, whatever state it is in (R145). -/
theorem Dec.Inv.itemStep (h : d.Inv lim) (hok : d.itemStep lim = .ok r) : r.Inv lim := by
  have hrun {st : DecState} (hst : d.state = st) (h1 : st ≠ .idle) (h2 : st ≠ .done) : d.running = true := by
    simp [Dec.running, hst, h1, h2]
  rw [Dec.itemStep_eq_perform, Dec.fetch] at hok
  cases hst : d.state <;> rw [hst] at hok
  case idle | done => cases hok; exact h
  case readFlagByte => exact h.fetchHeader (hrun hst nofun nofun) (by simp [hst]) hok
  case dispatch => exact h.fetchItem (hrun hst nofun nofun) (by simp [hst]) hok
  case readLiteral => exact h.fetchLiteral (hrun hst nofun nofun) (by simp [hst]) hok
  case readToken1 => exact h.fetchToken1 (hrun hst nofun nofun) (by simp [hst]) hok
  case readToken2 => exact h.fetchToken2 (hrun hst nofun nofun) (by simp [hst]) hok
  case copy => exact h.copyRun hst hok

end Sys2Proof.Machine

/-! ## The MatchFinder's search as a function of the input and the position (40_match_finder.md R80, R83 to R90) -/

namespace Sys2Proof.Machine

/-- The scan on the best match alone, from offset `o` on: `best` is its offset and length so far. `Enc.mfScan_spec` ties it to
the scanner. -/
def scanFrom (inp : Bytes) (cap p : Nat) : Nat → Nat → Nat × Nat → Nat × Nat
  | 0, _, best => best
  | n + 1, o, best =>
    if 63 < Ref.run inp cap p o then (o, 63)
    else
      let best' := if best.2 < Ref.run inp cap p o then (o, Ref.run inp cap p o) else best
      if o + 1 ≤ min p 1023 then scanFrom inp cap p n (o + 1) best' else best'

/-- What a search at position `p` answers. `Enc.mfSearch_spec` ties it to the MatchFinder. -/
def searchResult (inp : Bytes) (cap p : Nat) : Nat × Nat :=
  let best := if min p 1023 < 3 then (0, 0) else scanFrom inp cap p (min p 1023) 3 (0, 0)
  if 3 ≤ best.2 then best else (0, 0)

/-- The registers of a search with `togo` bytes to go, between two offsets and at its end (10_state.md R14). -/
structure Mf.Searching (togo : Nat) (m : Mf) : Prop where
  remain : m.remain = togo
  limit : m.limit ≤ 1023
  ofs : m.ofs ≤ 1024
  besto : (m.besto = 0 ∨ 3 ≤ m.besto) ∧ m.besto ≤ 1023
  bestl : m.bestl ≤ 63 ∧ m.bestl ≤ togo

/-- The registers of the comparison loop are in range (10_state.md R14). -/
structure Mf.Compared (cap : Nat) (m : Mf) : Prop where
  maxchk : m.maxchk ≤ 1023
  maxchk_le_cap : m.maxchk ≤ cap
  k : m.k ≤ m.maxchk

theorem Mf.Searching.inRange {togo cap : Nat} {m : Mf} (h : m.Searching togo) (hc : m.Compared cap) : m.inRange :=
  ⟨h.limit, h.ofs, hc.maxchk, hc.k, h.besto.1, h.besto.2, h.bestl.1⟩

/-- A run is no longer than the bytes that are left, the offset, and the lookahead (R84). -/
theorem Ref.run_le (inp : Bytes) (cap p o : Nat) :
    Ref.run inp cap p o ≤ min (min (inp.length - p) o) cap := Ref.runLength_le inp _ _ _

variable {e : Enc} {cap : Nat}

/-- `MF.TRY` (R84, R85) writes the registers of the comparison alone. -/
theorem Enc.mfTry_spec (cap : Nat) (hp : e.p < e.len) (ho : e.mf.ofs ≤ e.p) (hs : e.mf.Searching (e.len - e.p))
    (h1023 : e.mf.ofs ≤ 1023) :
    ∃ m, e.mfTry cap = .ok { e with mf := m } ∧ m.Searching (e.len - e.p) ∧ m.Compared cap ∧
      m = { e.mf with maxchk := m.maxchk, k := Ref.run e.input cap e.p e.mf.ofs } ∧ m.k ≤ e.len - e.p := by
  have hrun := Ref.run_le e.input cap e.p e.mf.ofs
  rw [e.length_input] at hrun
  refine ⟨_, Enc.mfTry_eq cap e hs.remain hp ho, { hs with }, ?_, rfl, by dsimp; omega⟩
  exact { maxchk := by dsimp; omega, maxchk_le_cap := by dsimp; omega, k := hrun }

/-- `MF.UPDATE` and the step to the next offset, after a comparison that was not clamped (R87, R90). -/
theorem Enc.mfUpdate_mfNext_spec {togo : Nat} (hs : e.mf.Searching togo) (hc : e.mf.Compared cap) (h63 : e.mf.k ≤ 63)
    (hk : e.mf.k ≤ togo) (h3 : 3 ≤ e.mf.ofs) (h1023 : e.mf.ofs ≤ 1023) :
    ∃ m, e.mfUpdate.mfNext = { e with mf := m } ∧ m.Searching togo ∧ m.Compared cap ∧
      m.ofs = e.mf.ofs + 1 ∧ m.limit = e.mf.limit ∧
      (m.besto, m.bestl) = if e.mf.bestl < e.mf.k then (e.mf.ofs, e.mf.k) else (e.mf.besto, e.mf.bestl) := by
  have hofs : e.mf.ofs + 1 ≤ 1024 := Nat.succ_le_succ h1023
  unfold Enc.mfUpdate
  by_cases h : e.mf.bestl < e.mf.k
  · rw [if_pos h, if_pos h]
    exact ⟨_, rfl, { hs with ofs := hofs, besto := ⟨.inr h3, h1023⟩, bestl := ⟨h63, hk⟩ }, { hc with }, rfl, rfl, rfl⟩
  · rw [if_neg h, if_neg h]
    exact ⟨_, rfl, { hs with ofs := hofs }, { hc with }, rfl, rfl, rfl⟩

/-- The scan from offset `OFS` on writes the MatchFinder's registers alone, keeps them in range, and finds the best match. -/
theorem Enc.mfScan_spec {n : Nat} (hp : e.p < e.len) (hl : e.mf.limit = min e.p 1023) (h3 : 3 ≤ e.mf.ofs)
    (ho : e.mf.ofs ≤ e.mf.limit) (hs : e.mf.Searching (e.len - e.p)) :
    ∃ m, e.mfScan cap n = .ok { e with mf := m } ∧ m.Searching (e.len - e.p) ∧
      (e.mf.Compared cap → m.Compared cap) ∧
      (m.besto, m.bestl) = scanFrom e.input cap e.p n e.mf.ofs (e.mf.besto, e.mf.bestl) := by
  induction n generalizing e with
  | zero => exact ⟨e.mf, rfl, hs, id, rfl⟩
  | succ n ih =>
    obtain ⟨m1, htry, hs1, hc1, hm1, hk1⟩ := e.mfTry_spec cap hp (by omega) hs (by omega)
    have hofs : m1.ofs = e.mf.ofs := by rw [hm1]
    have hlim : m1.limit = e.mf.limit := by rw [hm1]
    have hbest : (m1.besto, m1.bestl) = (e.mf.besto, e.mf.bestl) := by rw [hm1]
    have hk : m1.k = Ref.run e.input cap e.p e.mf.ofs := by rw [hm1]
    rw [Enc.mfScan, htry, scanFrom, ← hk, ← hofs, ← hbest]
    have h3m : 3 ≤ m1.ofs := hofs ▸ h3
    have h1023 : m1.ofs ≤ 1023 := by omega
    dsimp only
    by_cases hclamp : 63 < m1.k
    · rw [if_pos hclamp, if_pos hclamp]
      exact ⟨_, rfl, { hs1 with besto := ⟨.inr h3m, h1023⟩, bestl := ⟨le_rfl, hclamp.le.trans hk1⟩ },
        fun _ => { hc1 with }, rfl⟩
    rw [if_neg hclamp, if_neg hclamp]
    obtain ⟨m2, hnext, hs2, hc2, hofs2, hlim2, hbest2⟩ := Enc.mfUpdate_mfNext_spec (e := { e with mf := m1 }) hs1 hc1
      (not_lt.1 hclamp) hk1 h3m h1023
    rw [hnext, ← hbest2, ← hl, ← hofs2]
    dsimp only
    rw [hlim2, hlim]
    by_cases hmore : m2.ofs ≤ e.mf.limit
    · rw [if_pos hmore, if_pos hmore]
      have h3m2 : 3 ≤ m2.ofs := by rw [hofs2]; exact h3m.trans (Nat.le_succ _)
      have hlm2 : m2.limit = e.mf.limit := hlim2.trans hlim
      obtain ⟨m, hscan, hsm, hcm, hbm⟩ := ih (e := { e with mf := m2 }) hp (hlm2.trans hl) h3m2 (hlm2 ▸ hmore) hs2
      exact ⟨m, hscan, hsm, fun _ => hcm hc2, hbm⟩
    · rw [if_neg hmore, if_neg hmore]
      exact ⟨m2, rfl, hs2, fun _ => hc2, rfl⟩

/-- A search writes the MatchFinder's registers alone, keeps them in range, and its result depends on nothing but the input
and the position (R80). -/
theorem Enc.mfSearch_spec (cap : Nat) (hp : e.p < e.len) :
    ∃ m, e.mfSearch cap = .ok { e with mf := m } ∧ m.Searching (e.len - e.p) ∧ (e.mf.Compared cap → m.Compared cap) ∧
      m.result = searchResult e.input cap e.p := by
  have hs : e.mfInit.mf.Searching (e.len - e.p) :=
    { remain := rfl, limit := by simp, ofs := by simp, besto := ⟨.inl rfl, by simp⟩, bestl := by simp }
  have hresult : ∀ {m : Mf} {b : Nat × Nat}, (m.besto, m.bestl) = b → m.result = if 3 ≤ b.2 then b else (0, 0) := by
    rintro m b rfl; rfl
  rw [Enc.mfSearch, searchResult]
  by_cases h : min e.p 1023 < 3
  · rw [if_pos h]
    exact ⟨e.mfInit.mf, if_pos h, hs, fun hc => { hc with }, hresult rfl⟩
  · rw [if_neg h]
    obtain ⟨m, hscan, hsm, hcm, hbm⟩ := Enc.mfScan_spec (e := e.mfInit) (cap := cap) (n := min e.p 1023) hp rfl
      (le_refl 3) (not_lt.1 h) hs
    exact ⟨m, (if_neg h).trans hscan, hsm, fun hc => hcm { hc with }, hresult hbm⟩

end Sys2Proof.Machine

/-! ## The TokenPacker on the open group (41_token_packer.md R101 to R104), as `Ref.packerOf` sees it -/

namespace Sys2Proof.Machine

/-- A byte written behind the first `n` is the last of the first `n + 1`. -/
theorem Memory.bytes_write_succ {d v : Byte} {size n : Nat} {m : Memory} (h : Memory.wf d size m) :
    Memory.bytes d (Memory.write d m n v) 0 (n + 1) = Memory.bytes d m 0 n ++ [v] := by
  rw [Memory.bytes_succ, Memory.bytes_write_of_le h (by omega), Nat.zero_add, Memory.read_write_same h]

/-- Marking item `n` leaves the bits of later items (20_memory.md R46). -/
theorem flagsMark_later {flags : Byte} {n i : Nat} (hi : n < i) (h8 : i < 8) :
    (flagsMark flags n).getLsbD (7 - i) = flags.getLsbD (7 - i) := by
  have hzero : (0x80#8).getLsbD (n + (7 - i)) = false := by
    have hlt : n + (7 - i) < 7 := by omega
    generalize n + (7 - i) = j at hlt
    decide +revert
  simp [flagsMark, hzero]

/-- What R15 and R30 ask of the open group in a run; a group filled with no-ops may have 8 items. -/
structure Tp.Group (t : Tp) : Prop where
  itemsWf : Memory.wf Space.items.unlisted Config.itemsSize t.items
  nitems : t.nitems ≤ 8
  le_nbytes : t.nitems ≤ t.nbytes
  nbytes_le : t.nbytes ≤ 2 * t.nitems
  flags : ∀ i, t.nitems ≤ i → i < 8 → t.flags.getLsbD (7 - i) = false

theorem Tp.Group.nbytes_le_16 {t : Tp} (h : t.Group) : t.nbytes ≤ 16 := by
  have h1 := h.nitems
  have h2 := h.nbytes_le
  omega

/-- The group as a flush and a start leave it. -/
def Tp.cleared (t : Tp) : Tp := { t with flags := 0x00#8, nitems := 0, nbytes := 0 }

theorem Tp.cleared_group {t : Tp} (h : Memory.wf Space.items.unlisted Config.itemsSize t.items) : t.cleared.Group where
  itemsWf := h
  nitems := Nat.zero_le _
  le_nbytes := le_rfl
  nbytes_le := le_rfl
  flags := fun i _ _ => by simp [Tp.cleared]

/-- `t'` is the group `t` with one more item, of bytes `bs`, under the flag byte `flags`. -/
structure Tp.Adds (t t' : Tp) (flags : Byte) (bs : Bytes) : Prop where
  group : t'.Group
  nitems : t'.nitems = t.nitems + 1
  flags : t'.flags = flags
  bytes : Memory.bytes Space.items.unlisted t'.items 0 t'.nbytes =
    Memory.bytes Space.items.unlisted t.items 0 t.nbytes ++ bs

variable {e : Enc}

/-- `TP.PUT_LIT` (R101). -/
theorem Enc.putLit_spec (hg : e.tp.Group) (hn : e.tp.nitems ≤ 7) (hp : e.p < e.len) :
    ∃ t, e.putLit = .ok { e with tp := t, p := e.p + 1 } ∧
      e.tp.Adds t e.tp.flags [Memory.read Space.inp.unlisted e.inMem e.p] := by
  obtain ⟨hwf, -, hlo, hhi, hflags⟩ := hg
  have h16 : e.tp.nbytes < 16 := by omega
  rw [Enc.putLit, e.readIn_eq hp]
  dsimp only
  rw [e.writeItem_eq _ h16]
  refine ⟨_, rfl, ⟨Memory.write_wf hwf h16, ?_, ?_, ?_, ?_⟩, rfl, rfl, Memory.bytes_write_succ hwf⟩ <;> dsimp only
  · omega
  · omega
  · omega
  · exact fun i hi h8 => hflags i (by omega) h8

/-- A token in the open group (R102, 42_padding_controller.md R118). -/
theorem Enc.putToken_spec (hg : e.tp.Group) (hn : e.tp.nitems ≤ 7) (o l : Nat) :
    ∃ t, e.putToken o l = .ok { e with tp := t } ∧
      e.tp.Adds t (flagsMark e.tp.flags e.tp.nitems) [packByte1 o l, packByte2 o] := by
  obtain ⟨hwf, -, hlo, hhi, hflags⟩ := hg
  have hwf1 := Memory.write_wf (v := packByte1 o l) hwf (show e.tp.nbytes < 16 by omega)
  rw [e.putToken_eq o l (by omega)]
  refine ⟨_, rfl, ⟨Memory.write_wf hwf1 (by simp; omega), ?_, ?_, ?_, ?_⟩, rfl, rfl, ?_⟩ <;> dsimp only
  · omega
  · omega
  · omega
  · exact fun i hi h8 => (flagsMark_later (by omega) h8).trans (hflags i (by omega) h8)
  · rw [Memory.bytes_write_succ hwf1, Memory.bytes_write_succ hwf, List.append_assoc]
    rfl

/-- Bytes of the input that the item of a search's result stands for (R106). -/
def itemLength (r : Nat × Nat) : Nat := if r = (0, 0) then 1 else r.2

/-- The put that a search's result asks for, and the cursor after it (R100, R106). -/
theorem Enc.put_spec (hg : e.tp.Group) (hn : e.tp.nitems ≤ 7) (hp : e.p < e.len) (r : Nat × Nat) :
    ∃ t, e.put r = .ok { e with tp := t, p := e.p + itemLength r } ∧
      e.tp.Adds t (if r = (0, 0) then e.tp.flags else flagsMark e.tp.flags e.tp.nitems)
        (if r = (0, 0) then [Memory.read Space.inp.unlisted e.inMem e.p] else [packByte1 r.1 r.2, packByte2 r.1]) := by
  rw [Enc.put, itemLength]
  by_cases h : r = (0, 0)
  · simp only [if_pos h]
    exact Enc.putLit_spec hg hn hp
  · simp only [if_neg h]
    obtain ⟨t, ht, hadds⟩ := Enc.putToken_spec hg hn r.1 r.2
    exact ⟨t, by rw [Enc.putMatch, ht], hadds⟩

/-- ENC after `TP.FLUSH`; `Enc.flush_eq` ties it to the model. -/
def Enc.flushed (e : Enc) : Enc :=
  { e with
    out := e.out ++ e.tp.flags :: Memory.bytes Space.items.unlisted e.tp.items 0 e.tp.nbytes
    total := e.total + 1 + e.tp.nbytes
    tp := e.tp.cleared }

/-- `TP.FLUSH` (R104). -/
theorem Enc.flush_eq (h : e.tp.nbytes ≤ 16) : e.flush = .ok e.flushed := by
  rw [Enc.flush, Enc.emitItems_eq _ _ _ (by omega)]
  simp [Enc.flushed, Tp.cleared]

theorem Enc.packerOf_flushed (e : Enc) : Ref.packerOf e.flushed = (Ref.packerOf e).flush := by
  simp [Ref.packerOf, Enc.flushed, Tp.cleared, Ref.Packer.flush, Memory.bytes]

/-- A flush under a condition (R100, R105) writes the group and the output alone. -/
theorem Enc.flushIf_spec (c : Prop) [Decidable c] (hg : e.tp.Group) (htotal : e.total = e.out.length) :
    ∃ t out total, (if c then e.flush else .ok e) = .ok { e with tp := t, out := out, total := total } ∧
      t.Group ∧ (c → t.nitems = 0) ∧ (¬ c → t = e.tp) ∧ total = out.length ∧
      Ref.packerOf { e with tp := t, out := out, total := total } =
        if c then (Ref.packerOf e).flush else Ref.packerOf e := by
  by_cases h : c
  · simp only [if_pos h]
    refine ⟨_, _, _, Enc.flush_eq hg.nbytes_le_16, Tp.cleared_group hg.itemsWf, fun _ => rfl, absurd h, ?_,
      Enc.packerOf_flushed e⟩
    simp [htotal]; omega
  · simp only [if_neg h]
    exact ⟨e.tp, e.out, e.total, rfl, hg, fun hc => absurd hc h, fun _ => rfl, htotal, rfl⟩

/-- One item and the flush of a full group are `put` of the packer (R100, 45_reference_functions.md R175). -/
theorem Enc.put_flushFull_spec (hg : e.tp.Group) (hn : e.tp.nitems ≤ 7) (hp : e.p < e.len)
    (htotal : e.total = e.out.length) (r : Nat × Nat) :
    ∃ e1 t out total, e.put r = .ok e1 ∧
      e1.flushFull = .ok { e with p := e.p + itemLength r, tp := t, out := out, total := total } ∧
      t.Group ∧ t.nitems ≤ 7 ∧ total = out.length ∧
      Ref.packerOf { e with p := e.p + itemLength r, tp := t, out := out, total := total } =
        (Ref.packerOf e).put (e.input.getD e.p 0) r := by
  obtain ⟨t1, hput, hadds⟩ := Enc.put_spec hg hn hp r
  obtain ⟨t, out, total, hflush, hgt, hc, hnc, htot, hk⟩ :=
    Enc.flushIf_spec (e := { e with tp := t1, p := e.p + itemLength r }) (t1.nitems = 8) hadds.group htotal
  refine ⟨_, t, out, total, hput, hflush, hgt, ?_, htot, hk.trans ?_⟩
  · by_cases h8 : t1.nitems = 8
    · rw [hc h8]; exact Nat.zero_le _
    · rw [hnc h8]; have := hadds.group.nitems; dsimp; omega
  · have hk1 : Ref.packerOf { e with tp := t1, p := e.p + itemLength r } =
        if r = (0, 0) then
          { Ref.packerOf e with items := (Ref.packerOf e).items ++ [e.input.getD e.p 0], n := (Ref.packerOf e).n + 1 }
        else
          { Ref.packerOf e with
            items := (Ref.packerOf e).items ++ [packByte1 r.1 r.2, packByte2 r.1]
            flags := flagsMark (Ref.packerOf e).flags (Ref.packerOf e).n, n := (Ref.packerOf e).n + 1 } := by
      simp only [Ref.packerOf, hadds.bytes, hadds.flags, hadds.nitems, e.input_getD hp]
      split <;> rfl
    rw [Ref.Packer.put, ← hk1]
    rfl

end Sys2Proof.Machine

/-! ## The padding controller's loops in closed form (42_padding_controller.md R116, R118, R121) -/

namespace Sys2Proof.Machine

variable {e : Enc}

/-- The loop of the no-op fill adds tokens to the group alone, as `Ref.noopFill` does. -/
theorem Enc.nopFillLoop_spec {n : Nat} (hg : e.tp.Group) (htotal : e.total = e.out.length) :
    ∃ t, e.nopFillLoop n = .ok { e with tp := t } ∧ t.Group ∧
      Ref.packerOf { e with tp := t } = Ref.noopFill n (Ref.packerOf e) := by
  induction n generalizing e with
  | zero => exact ⟨e.tp, rfl, hg, rfl⟩
  | succ n ih =>
    have hcond : (e.tp.nitems < Config.group ∧ (e.total + 1 + e.tp.nbytes) % Config.align ≠ 0) ↔
        ((Ref.packerOf e).n < 8 ∧ ((Ref.packerOf e).out.length + 1 + (Ref.packerOf e).items.length) % 16 ≠ 0) := by
      simp [Ref.packerOf, htotal]
    rw [Enc.nopFillLoop, Ref.noopFill]
    by_cases h : (Ref.packerOf e).n < 8 ∧ ((Ref.packerOf e).out.length + 1 + (Ref.packerOf e).items.length) % 16 ≠ 0
    · rw [if_pos (hcond.2 h), if_pos h]
      obtain ⟨t, ht, hadds⟩ := Enc.putToken_spec hg (Nat.le_of_lt_succ h.1) 0 0
      obtain ⟨t', hloop, hg', hk⟩ := ih (e := { e with tp := t }) hadds.group htotal
      refine ⟨t', by rw [ht]; exact hloop, hg', hk.trans ?_⟩
      congr 1
      simp only [Ref.packerOf, hadds.bytes, hadds.flags, hadds.nitems]
      rfl
    · rw [if_neg (fun h' => h (hcond.1 h')), if_neg h]
      exact ⟨e.tp, rfl, hg, rfl⟩

/-- Zero bytes up to the boundary (R116), where the bound on the rounds lets the loop get there. -/
theorem Enc.zeroPadLoop_eq {n : Nat} (h : Ref.zeroPadCount e.total ≤ n) :
    e.zeroPadLoop n = { e with
      out := e.out ++ List.replicate (Ref.zeroPadCount e.total) 0x00#8
      total := e.total + Ref.zeroPadCount e.total } := by
  induction n generalizing e with
  | zero =>
    rw [Nat.le_zero.1 h]
    simp [Enc.zeroPadLoop]
  | succ n ih =>
    unfold Ref.zeroPadCount at *
    rw [Enc.zeroPadLoop, Config.align_eq]
    by_cases h0 : e.total % 16 = 0
    · simp [h0]
    · have hsucc : (16 - e.total % 16) % 16 = (16 - (e.total + 1) % 16) % 16 + 1 := by omega
      rw [if_pos h0, ih (by simp; omega), hsucc]
      simp [List.replicate_succ, Nat.add_assoc, Nat.add_comm 1]

/-- The bytes of the endlessly repeated template from index `i` on (R121). -/
theorem Enc.templateLoop_eq {n : Nat} (ht : e.pc.tidx < 17) :
    e.templateLoop n = { e with
      out := e.out ++ (List.range n).map fun i => Config.template.getD ((e.pc.tidx + i) % 17) 0x00#8
      total := e.total + n
      pc := { e.pc with tidx := (e.pc.tidx + n) % 17, padcnt := e.pc.padcnt - n } } := by
  induction n generalizing e with
  | zero => simp [Enc.templateLoop, Nat.mod_eq_of_lt ht]
  | succ n ih =>
    rw [Enc.templateLoop, ih (Nat.mod_lt _ (by decide)), List.range_succ_eq_map]
    simp [Enc.emit, Nat.mod_eq_of_lt ht, Function.comp_def, Nat.add_assoc, Nat.add_comm 1, Nat.sub_sub]

end Sys2Proof.Machine

/-! ## One step of ENC (41_token_packer.md R100, 42_padding_controller.md R115)

`Enc.step_spec` says once what a step of a started ENC does: it answers, it keeps `Enc.Run`, it keeps the scratch registers in
range, and what it makes of the rest of the run is a function of `Enc.view` and the input alone. -/

namespace Sys2Proof.Machine

/-- The clauses of ENC's invariant about what a start writes (R30), from the start of a run to its `Done`. -/
structure Enc.Run (e : Enc) : Prop where
  group : e.tp.Group
  total : e.total = e.out.length
  pos : e.p ≤ e.len
  exhausted : e.state ≠ .run → e.p = e.len
  nitems : e.state ≠ .finalFlush → e.tp.nitems ≤ 7
  flushed : e.state = .zeroPad ∨ e.state = .templatePad → e.tp.nitems = 0
  csize : e.state = .done → e.csize = e.total

/-- The clauses about registers that a start does not write, with a lookahead capacity `cap` (R14, R18, log 24). -/
structure Enc.ScratchInRange (cap : Nat) (e : Enc) : Prop where
  mf : e.mf.inRange
  maxchk : e.mf.maxchk ≤ cap
  remain : 0 < e.p → 1 ≤ e.mf.remain ∧ e.mf.remain ≤ e.len
  pc : e.pc.inRange

theorem Enc.ScratchInRange.compared {cap : Nat} {e : Enc} (h : e.ScratchInRange cap) : e.mf.Compared cap := by
  obtain ⟨-, -, hmaxchk, hk, -, -, -⟩ := h.mf
  exact ⟨hmaxchk, h.maxchk, hk⟩

/-- What the rest of an ENC run depends on beside its input. -/
structure Enc.View where
  state : EncState
  p : Nat
  packer : Ref.Packer

def Enc.view (e : Enc) : Enc.View := ⟨e.state, e.p, Ref.packerOf e⟩

/-- Where the final flush leads (R105, R115); `Enc.afterFlush_eq` ties it to the model. -/
def PadMode.tailState : PadMode → EncState
  | .default => .zeroPad
  | .noPad => .done
  | .exactPad => .templatePad

theorem Enc.afterFlush_eq (mode : PadMode) (e : Enc) :
    e.afterFlush mode =
      { e with state := mode.tailState, csize := if mode.tailState = .done then e.total else e.csize } := by
  cases mode <;> rfl

/-- A step of ENC on its view; `Enc.step_spec` ties it to `Enc.step`. -/
def Enc.View.step (cap : Nat) (mode : PadMode) (inp : Bytes) (v : Enc.View) : Enc.View :=
  match v.state with
  | .idle => v
  | .run =>
    if v.p = inp.length then { v with state := if mode = .exactPad then .nopFill else .finalFlush }
    else
      let r := searchResult inp cap v.p
      { v with p := v.p + itemLength r, packer := v.packer.put (inp.getD v.p 0) r }
  | .nopFill => { v with state := .finalFlush, packer := if 0 < v.packer.n then Ref.noopFill 8 v.packer else v.packer }
  | .finalFlush =>
    { v with
      state := mode.tailState
      packer := if 0 < v.packer.n then v.packer.flush else v.packer }
  | .zeroPad => { v with state := .done, packer := { v.packer with out := Ref.padTail .default v.packer.out } }
  | .templatePad => { v with state := .done, packer := { v.packer with out := Ref.padTail .exactPad v.packer.out } }
  | .done => v

/-- What a step from `e` to `e'` keeps and does. -/
structure Enc.Steps (cap : Nat) (mode : PadMode) (e e' : Enc) : Prop where
  run : e'.Run
  inMem : e'.inMem = e.inMem
  len : e'.len = e.len
  view : e'.view = e.view.step cap mode e.input
  scratch : e.ScratchInRange cap → e'.ScratchInRange cap

variable {e : Enc} {cap : Nat} {mode : PadMode}

/-- A search's item is not empty and does not reach beyond the input (40_match_finder.md R94). -/
theorem Mf.Searching.itemLength_le {togo : Nat} {m : Mf} (h : m.Searching togo) (htogo : 0 < togo) :
    1 ≤ itemLength m.result ∧ itemLength m.result ≤ togo := by
  have hl := h.bestl.2
  unfold itemLength Mf.result
  by_cases h3 : m.bestl ≥ Config.minMatch
  · have hne : (m.besto, m.bestl) ≠ (0, 0) := fun he => by
      have hl0 : m.bestl = 0 := congrArg Prod.snd he
      rw [hl0] at h3
      exact absurd h3 (by decide)
    rw [if_pos h3, if_neg hne]
    exact ⟨le_trans (by decide) h3, hl⟩
  · rw [if_neg h3, if_pos rfl]
    exact ⟨le_rfl, htogo⟩

/-- One search, one item, and the flush of a full group (R100). -/
theorem Enc.runStep_item (hg : e.tp.Group) (hn : e.tp.nitems ≤ 7) (hp : e.p < e.len) (htotal : e.total = e.out.length) :
    ∃ m p t out total, e.runStep cap mode = .ok { e with mf := m, p := p, tp := t, out := out, total := total } ∧
      m.Searching (e.len - e.p) ∧ (e.mf.Compared cap → m.Compared cap) ∧
      p = e.p + itemLength (searchResult e.input cap e.p) ∧ e.p < p ∧ p ≤ e.len ∧
      t.Group ∧ t.nitems ≤ 7 ∧ total = out.length ∧
      Ref.packerOf { e with mf := m, p := p, tp := t, out := out, total := total } =
        (Ref.packerOf e).put (e.input.getD e.p 0) (searchResult e.input cap e.p) := by
  obtain ⟨m, hsearch, hsm, hcm, hres⟩ := Enc.mfSearch_spec cap hp
  obtain ⟨e1, t, out, total, hput, hflush, hgt, hnt, htot, hk⟩ :=
    Enc.put_flushFull_spec (e := { e with mf := m }) hg hn hp htotal m.result
  obtain ⟨hlen1, hlen⟩ := hsm.itemLength_le (by omega)
  rw [hres] at hflush hlen1 hlen hk
  refine ⟨m, _, t, out, total, ?_, hsm, hcm, rfl, by omega, by omega, hgt, hnt, htot, hk⟩
  rw [Enc.runStep, if_neg hp.ne, hsearch]
  dsimp only
  rw [hput]
  exact hflush

/-- The input is exhausted: on to the tail (R100, R115). -/
theorem Enc.step_endOfInput (h : e.Run) (hst : e.state = .run) (hp : e.p = e.len) :
    ∃ e', e.step cap mode = .ok e' ∧ e.Steps cap mode e' := by
  refine ⟨_, by rw [Enc.step, hst]; exact if_pos hp, ?_⟩
  generalize hst' : (if mode = .exactPad then EncState.nopFill else .finalFlush) = st
  have hcases : st = .nopFill ∨ st = .finalFlush := hst' ▸ ite_eq_or_eq _ _ _
  have hn : e.tp.nitems ≤ 7 := h.nitems (by simp [hst])
  refine ⟨⟨h.group, h.total, h.pos, fun _ => hp, fun _ => hn, ?_, ?_⟩, rfl, rfl, ?_, fun hs => { hs with }⟩
  · rcases hcases with rfl | rfl <;> nofun
  · rcases hcases with rfl | rfl <;> nofun
  · simp [Enc.view, Enc.View.step, hst, hp, hst', Ref.packerOf]

/-- Input is left (R100): what the state and `P` are after the item, and what the MatchFinder's registers hold. -/
theorem Enc.step_item (h : e.Run) (hst : e.state = .run) (hp : e.p < e.len) :
    ∃ e', e.step cap mode = .ok e' ∧ e.Steps cap mode e' := by
  obtain ⟨m, p, t, out, total, hrun, hsm, hcm, hpeq, hlt, hple, hg, hn, htotal, hk⟩ :=
    Enc.runStep_item (mode := mode) (cap := cap) h.group (h.nitems (by simp [hst])) hp h.total
  have hstep : e.step cap mode = e.runStep cap mode := by rw [Enc.step, hst]
  refine ⟨_, hstep.trans hrun, ⟨hg, htotal, hple, fun hne => absurd hst hne, fun _ => hn, ?_, ?_⟩, rfl, rfl, ?_,
    fun hs => ?_⟩
  · simp [hst]
  · simp [hst]
  · rw [Enc.view, hk]
    simp only [Enc.view, Enc.View.step, hst, Enc.length_input, if_neg hp.ne, hpeq]
  · have hc := hcm hs.compared
    exact { hs with
      mf := hsm.inRange hc, maxchk := hc.maxchk_le_cap
      remain := fun _ => by rw [hsm.remain]; dsimp; omega }

/-- `PC.NOPFILL` (42_padding_controller.md R118, R119). -/
theorem Enc.step_nopFill (h : e.Run) (hst : e.state = .nopFill) :
    ∃ e', e.step cap mode = .ok e' ∧ e.Steps cap mode e' := by
  have hp : e.p = e.len := h.exhausted (by simp [hst])
  have hfill : ∃ t, (if e.tp.nitems > 0 then e.nopFillLoop Config.group else .ok e) = .ok { e with tp := t } ∧ t.Group ∧
      Ref.packerOf { e with tp := t } =
        if 0 < (Ref.packerOf e).n then Ref.noopFill 8 (Ref.packerOf e) else Ref.packerOf e := by
    by_cases h0 : 0 < e.tp.nitems
    · simp only [if_pos h0, show 0 < (Ref.packerOf e).n from h0, if_true]
      exact Enc.nopFillLoop_spec h.group h.total
    · simp only [if_neg h0, show ¬ 0 < (Ref.packerOf e).n from h0, if_false]
      exact ⟨e.tp, rfl, h.group, rfl⟩
  obtain ⟨t, ht, hg, hk⟩ := hfill
  refine ⟨{ e with tp := t, state := .finalFlush }, by rw [Enc.step, hst]; simp only [Enc.nopFill, ht], ?_⟩
  refine ⟨⟨hg, h.total, h.pos, fun _ => hp, fun hne => absurd rfl hne, nofun, nofun⟩, rfl, rfl, ?_, fun hs => { hs with }⟩
  simp only [Enc.view, Enc.View.step, hst, ← hk]
  rfl

/-- `TP.FINAL_FLUSH` (R105). -/
theorem Enc.step_finalFlush (h : e.Run) (hst : e.state = .finalFlush) :
    ∃ e', e.step cap mode = .ok e' ∧ e.Steps cap mode e' := by
  have hp : e.p = e.len := h.exhausted (by simp [hst])
  obtain ⟨t, out, total, hf, hg, hc, hnc, htotal, hk⟩ := Enc.flushIf_spec (e.tp.nitems > 0) h.group h.total
  have h0 : t.nitems = 0 := by
    by_cases h0 : e.tp.nitems > 0
    · exact hc h0
    · rw [hnc h0]; omega
  have hstep : e.step cap mode = .ok (Enc.afterFlush mode { e with tp := t, out := out, total := total }) := by
    have hff : e.step cap mode = e.finalFlush mode := by rw [Enc.step, hst]
    rw [hff, Enc.finalFlush, hf]
  rw [Enc.afterFlush_eq] at hstep
  refine ⟨_, hstep, ⟨hg, htotal, h.pos, fun _ => hp, fun _ => ?_, fun _ => h0, fun hd => if_pos hd⟩, rfl, rfl, ?_,
    fun hs => { hs with }⟩
  · exact h0.trans_le (Nat.zero_le _)
  · simp only [Enc.view, Enc.View.step, hst]
    exact congrArg (Enc.View.mk mode.tailState e.p) hk

/-- `PC.ZERO_PAD` (R116). -/
theorem Enc.step_zeroPad (h : e.Run) (hst : e.state = .zeroPad) :
    ∃ e', e.step cap mode = .ok e' ∧ e.Steps cap mode e' := by
  have hp : e.p = e.len := h.exhausted (by simp [hst])
  have h0 : e.tp.nitems = 0 := h.flushed (.inl hst)
  have hbound : Ref.zeroPadCount e.total ≤ Config.align := (Nat.mod_lt _ (by decide)).le
  refine ⟨e.zeroPad, by rw [Enc.step, hst], ?_⟩
  rw [Enc.zeroPad, Enc.zeroPadLoop_eq hbound]
  refine ⟨⟨h.group, by simp [h.total], h.pos, fun _ => hp, fun _ => by simp [h0], nofun, fun _ => rfl⟩, rfl, rfl, ?_,
    fun hs => { hs with }⟩
  simp [Enc.view, Enc.View.step, hst, Ref.packerOf, Ref.padTail, h.total]

/-- `PC.TEMPLATE_PAD` (R121). -/
theorem Enc.step_templatePad (h : e.Run) (hst : e.state = .templatePad) :
    ∃ e', e.step cap mode = .ok e' ∧ e.Steps cap mode e' := by
  have hp : e.p = e.len := h.exhausted (by simp [hst])
  have h0 : e.tp.nitems = 0 := h.flushed (.inr hst)
  refine ⟨e.templatePad, by rw [Enc.step, hst], ?_⟩
  rw [Enc.templatePad, Enc.templateLoop_eq (by simp)]
  refine ⟨⟨h.group, by simp [h.total], h.pos, fun _ => hp, fun _ => by simp [h0], nofun, fun _ => rfl⟩, rfl, rfl, ?_,
    fun hs => { hs with pc := ?_ }⟩
  · simp [Enc.view, Enc.View.step, hst, Ref.packerOf, Ref.padTail, Ref.templateBytes, h.total]
  · exact ⟨Nat.sub_le _ _, by simp, Nat.le_of_lt_succ (Nat.mod_lt _ (by decide))⟩

/-- An engine that is not running stays as it is (R126, R220). -/
theorem Enc.step_notRunning (h : e.Run) (hst : e.state = .idle ∨ e.state = .done) :
    ∃ e', e.step cap mode = .ok e' ∧ e.Steps cap mode e' := by
  refine ⟨e, ?_, h, rfl, rfl, ?_, id⟩
  · rcases hst with hst | hst <;> rw [Enc.step, hst]
  · rcases hst with hst | hst <;> simp [Enc.view, Enc.View.step, hst]

/-- Every step of a started ENC. -/
theorem Enc.step_spec (cap : Nat) (mode : PadMode) (h : e.Run) :
    ∃ e', e.step cap mode = .ok e' ∧ e.Steps cap mode e' := by
  cases hst : e.state
  case idle => exact Enc.step_notRunning h (.inl hst)
  case run =>
    rcases Nat.lt_or_eq_of_le h.pos with hp | hp
    · exact Enc.step_item h hst hp
    · exact Enc.step_endOfInput h hst hp
  case nopFill => exact Enc.step_nopFill h hst
  case finalFlush => exact Enc.step_finalFlush h hst
  case zeroPad => exact Enc.step_zeroPad h hst
  case templatePad => exact Enc.step_templatePad h hst
  case done => exact Enc.step_notRunning h (.inr hst)

end Sys2Proof.Machine

/-! ## The machine's invariant (10_state.md R30) -/

namespace Sys2Proof.Machine

variable {e : Enc}

/-- In a run the invariant of ENC is `Enc.Run`, the registers that a start does not write, and the input's canonical form. -/
theorem Enc.Inv.run (h : e.Inv) (hr : e.running = true) : e.Run where
  group :=
    { itemsWf := h.itemsWf, nitems := h.tp.1, le_nbytes := (h.nbytes hr).1, nbytes_le := (h.nbytes hr).2
      flags := h.flags hr }
  total := h.total
  pos := h.pos hr
  exhausted := h.exhausted hr
  nitems := fun hst => by simpa [hst] using h.nitems hr
  flushed := h.flushed
  csize := h.csize

theorem Enc.Inv.scratchInRange (h : e.Inv) (hr : e.running = true) : e.ScratchInRange Config.lookaheadCap where
  mf := h.mf
  maxchk := h.maxchk
  remain := h.remain hr
  pc := h.pc

theorem Enc.Run.inv (h : e.Run) (hs : e.ScratchInRange Config.lookaheadCap)
    (hin : Memory.wf Space.inp.unlisted e.len e.inMem) : e.Inv where
  mf := hs.mf
  maxchk := hs.maxchk
  remain := fun _ => hs.remain
  tp := ⟨h.group.nitems, h.group.nbytes_le_16⟩
  pc := hs.pc
  inWf := hin
  itemsWf := h.group.itemsWf
  total := h.total
  pos := fun _ => h.pos
  exhausted := fun _ => h.exhausted
  nitems := fun _ => by
    split
    · exact h.group.nitems
    · next hst => exact h.nitems hst
  flushed := h.flushed
  nbytes := fun _ => ⟨h.group.le_nbytes, h.group.nbytes_le⟩
  flags := fun _ => h.group.flags
  csize := h.csize

/-- A start begins a run (41_token_packer.md R100). -/
theorem Enc.startRun_run (h : Memory.wf Space.items.unlisted Config.itemsSize e.tp.items) : e.startRun.Run where
  group := Tp.cleared_group h
  total := rfl
  pos := Nat.zero_le _
  exhausted := fun hst => absurd rfl hst
  nitems := fun _ => Nat.zero_le _
  flushed := nofun
  csize := nofun

theorem Enc.Inv.startRun (h : e.Inv) : e.startRun.Inv :=
  (Enc.startRun_run h.itemsWf).inv ⟨h.mf, h.maxchk, fun hp => absurd hp (lt_irrefl 0), h.pc⟩ h.inWf

/-- Every step of ENC keeps its invariant. -/
theorem Enc.Inv.step {mode : PadMode} {e' : Enc} (h : e.Inv) (hok : e.step Config.lookaheadCap mode = .ok e') :
    e'.Inv := by
  cases hr : e.running with
  | true =>
    obtain ⟨e1, he1, hsteps⟩ := Enc.step_spec Config.lookaheadCap mode (h.run hr)
    obtain rfl : e1 = e' := by simpa [he1] using hok
    exact hsteps.run.inv (hsteps.scratch (h.scratchInRange hr)) (by rw [hsteps.inMem, hsteps.len]; exact h.inWf)
  | false =>
    have hst : e.state = .idle ∨ e.state = .done := by
      revert hr
      cases hs : e.state <;> simp [Enc.running, hs]
    obtain rfl : e = e' := by
      rcases hst with hst | hst <;> rw [Enc.step, hst] at hok <;> cases hok <;> rfl
    exact h

/-- The host loads another input (R225). -/
theorem Enc.Inv.loadIn (h : e.Inv) (hr : e.running = false) (bs : Bytes) :
    ({ e with inMem := Memory.ofBytes Space.inp.unlisted 0 bs, len := bs.length } : Enc).Inv :=
  have hnot {p : Prop} : e.running = true → p := fun hr' => absurd hr' (by simp [hr])
  { h with
    remain := hnot
    inWf := Memory.ofBytes_wf _ bs
    pos := hnot
    exhausted := hnot }

/-- Settles O34: after power-on reset nothing runs, and every register and memory is zero or empty (logs 3 to 5). -/
theorem invariantHoldsAtReset : Obligations.InvariantHoldsAtReset where
  enc :=
    { mf := by decide
      maxchk := Nat.zero_le _
      remain := nofun
      tp := by decide
      pc := by decide
      inWf := Memory.nil_wf _ _
      itemsWf := Memory.nil_wf _ _
      total := rfl
      pos := nofun
      exhausted := nofun
      nitems := nofun
      flushed := by decide
      nbytes := nofun
      flags := nofun
      csize := nofun }
  dec :=
    { winWf := Memory.nil_wf _ _
      cur := by decide
      srcp := by decide
      dstp := by decide
      rem := by decide
      fcnt := by decide
      ocnt := rfl
      ipos := nofun
      belowLimit := nofun
      copying := nofun
      history := nofun }
  encOp := nofun
  decOp := nofun

/-- Settles O35: a step is a start or a step of the engine that `OP` selects, and each keeps that engine's invariant; the other
engine, which is not running, stays as it is. -/
theorem stepKeepsTheInvariant : Obligations.StepKeepsTheInvariant := by
  intro s t h hstep
  obtain ⟨henc, hdec, hencOp, hdecOp⟩ := h
  cases hop : s.op with
  | compress =>
    obtain ⟨-, -, -, rfl⟩ | ⟨-, e, he, rfl⟩ := (step_compress_eq_next hop).1 hstep
    · exact ⟨henc.startRun, hdec, fun _ => hop, hdecOp⟩
    · exact ⟨henc.step he, hdec, fun _ => hop, hdecOp⟩
  | decompress =>
    obtain ⟨-, -, rfl⟩ | ⟨-, d, hd, rfl⟩ := (step_decompress_eq_next hop).1 hstep
    · exact ⟨henc, hdec.startRun, hencOp, fun _ => hop⟩
    · exact ⟨henc, hdec.itemStep hd, hencOp, fun _ => hop⟩

/-- What a host's operation answers when the machine allows it. -/
theorem allowed_eq_next {c : Prop} [Decidable c] {f : Fault} {s t : State}
    (h : (if c then Host.Outcome.fault f else .next s : Host.Outcome State Fault Refusal) = .next t) : ¬ c ∧ s = t := by
  split at h
  · cases h
  · next hc => cases h; exact ⟨hc, rfl⟩

/-- Settles O36: it holds at reset, and steps and the host's operations keep it. -/
theorem reachableStatesKeepTheInvariant : Obligations.ReachableStatesKeepTheInvariant := by
  intro s hs
  induction hs with
  | reset => exact invariantHoldsAtReset
  | step _ hstep ih => exact stepKeepsTheInvariant _ _ ih hstep
  | start _ ih => exact { ih with }
  | setOp op _ hop ih =>
    obtain ⟨hr, rfl⟩ := allowed_eq_next hop
    obtain ⟨hre, hrd⟩ : _ ∧ _ := by simpa using hr
    exact { ih with encOp := fun h => by simp [hre] at h, decOp := fun h => by simp [hrd] at h }
  | setPadMode mode _ hmode ih =>
    obtain ⟨-, rfl⟩ := allowed_eq_next hmode
    exact { ih with }
  | setOutLimit lim _ hlim ih =>
    obtain ⟨hr, rfl⟩ := allowed_eq_next hlim
    exact { ih with dec := ih.dec.setLimit (by simpa using hr) lim }
  | loadIn bs _ hload ih =>
    obtain ⟨hr, rfl⟩ := allowed_eq_next hload
    exact { ih with enc := ih.enc.loadIn (by simpa using hr) bs }
  | supplySrc bs _ hsrc ih =>
    obtain ⟨hr, rfl⟩ := allowed_eq_next hsrc
    exact { ih with dec := ih.dec.setSrc (by simpa using hr) bs }

end Sys2Proof.Machine

/-! ## What an ENC run depends on (10_state.md R28) -/

namespace Sys2Proof.Machine

/-- ENC is selected and started, nothing is pending, and the two machines agree on the input and on the rest of the run. -/
structure State.SameEncRun (s t : State) : Prop where
  op : s.op = .compress ∧ t.op = .compress
  start : s.start = false ∧ t.start = false
  padMode : s.padMode = t.padMode
  run : s.enc.Run ∧ t.enc.Run
  inMem : s.enc.inMem = t.enc.inMem
  len : s.enc.len = t.enc.len
  view : s.enc.view = t.enc.view

theorem step_sameEncRun {s t s' : State} (h : s.SameEncRun t) (hstep : step s = .next s') :
    ∃ t', step t = .next t' ∧ s'.SameEncRun t' := by
  obtain ⟨hop, hstart, hmode, hrun, hin, hlen, hview⟩ := h
  obtain ⟨hs, -⟩ | ⟨-, e, he, rfl⟩ := (step_compress_eq_next hop.1).1 hstep
  · simp [hstart.1] at hs
  obtain ⟨e1, he1, h1⟩ := Enc.step_spec Config.lookaheadCap s.padMode hrun.1
  obtain ⟨e2, he2, h2⟩ := Enc.step_spec Config.lookaheadCap t.padMode hrun.2
  obtain rfl : e1 = e := by simpa [he1] using he
  have hinput : s.enc.input = t.enc.input := by rw [Enc.input, Enc.input, hin, hlen]
  refine ⟨{ t with enc := e2 }, (step_compress_eq_next hop.2).2 (.inr ⟨hstart.2, e2, he2, rfl⟩), hop, hstart, hmode,
    ⟨h1.run, h2.run⟩, ?_, ?_, ?_⟩
  · exact h1.inMem.trans (hin.trans h2.inMem.symm)
  · exact h1.len.trans (hlen.trans h2.len.symm)
  · rw [h1.view, h2.view, hview, hmode, hinput]

/-- What two starts with the same input and `PAD_MODE` leave. -/
theorem step_start_sameEncRun {s t u : State} (hs : s.encStarting) (ht : t.encStarting) (hin : s.enc.inMem = t.enc.inMem)
    (hlen : s.enc.len = t.enc.len) (hmode : s.padMode = t.padMode)
    (hwfs : Memory.wf Space.items.unlisted Config.itemsSize s.enc.tp.items)
    (hwft : Memory.wf Space.items.unlisted Config.itemsSize t.enc.tp.items) (hstep : step s = .next u) :
    ∃ v, step t = .next v ∧ u.SameEncRun v := by
  obtain ⟨hop1, hstart1, -, -⟩ := hs
  obtain ⟨hop2, hstart2, hidle2, hfits2⟩ := ht
  obtain ⟨-, -, -, rfl⟩ | ⟨h, -⟩ := (step_compress_eq_next hop1).1 hstep
  · exact ⟨_, (step_compress_eq_next hop2).2 (.inl ⟨hstart2, hidle2, hfits2, rfl⟩), ⟨hop1, hop2⟩, ⟨rfl, rfl⟩, hmode,
      ⟨Enc.startRun_run hwfs, Enc.startRun_run hwft⟩, hin, hlen, rfl⟩
  · simp [hstart1] at h

/-- Settles O39: a start makes the two machines agree on all that an ENC run depends on, and every step keeps that. -/
theorem encRunForgetsThePast : Obligations.EncRunForgetsThePast := by
  intro s1 s2 h1 h2 hin hlen hmode hwf1 hwf2 n t1 hrun
  obtain ⟨u1, hu1, hrun⟩ := (run_succ_eq_next core).1 hrun
  obtain ⟨u2, hu2, hsame⟩ := step_start_sameEncRun h1 h2 hin hlen hmode hwf1 hwf2 hu1
  obtain ⟨t2, ht2, hsame'⟩ := run_keeps_relation step_sameEncRun hsame hrun
  obtain ⟨hst, hp, hk⟩ : t1.enc.state = t2.enc.state ∧ t1.enc.p = t2.enc.p ∧
      Ref.packerOf t1.enc = Ref.packerOf t2.enc := by
    simpa [Enc.view] using hsame'.view
  have hout : t1.enc.out = t2.enc.out := congrArg Ref.Packer.out hk
  refine ⟨t2, (run_succ_eq_next core).2 ⟨u2, hu2, ht2⟩, hout.symm, hst.symm, hp.symm, fun hdone => ?_⟩
  rw [hsame'.run.1.csize hdone, hsame'.run.2.csize (hst ▸ hdone), hsame'.run.1.total, hsame'.run.2.total, hout]

end Sys2Proof.Machine

/-! ## Flag bits and window slots (20_memory.md R43, R46) -/

namespace Sys2Proof.Machine

/-- The bit that `flagsMark` sets for item `n` is bit `7 - n`, and no other. -/
theorem getLsbD_markBit {i : Nat} (hi : i < 8) (n : Nat) : ((0x80#8) >>> n).getLsbD (7 - i) = decide (i = n) := by
  have hbit : 7 = n + (7 - i) ↔ i = n := by omega
  rw [show (0x80#8 : Byte) = BitVec.twoPow 8 7 from rfl, BitVec.getLsbD_ushiftRight, BitVec.getLsbD_twoPow]
  simp [hbit]

theorem flgShift_iterate (f : Byte) (i : Nat) : flgShift^[i] f = f <<< i := by
  induction i with
  | zero => simp
  | succ i ih => rw [Function.iterate_succ_apply', ih, flgShift, BitVec.shiftLeft_add]

/-- Settles O7: marking ors in the one bit `7 - n`; `i` shifts to the left bring bit `7 - i` to the top. -/
theorem itemOwnsFlagBitFromTheTop : Obligations.ItemOwnsFlagBitFromTheTop := by
  intro f i hi
  refine ⟨fun n _ => ?_, ?_⟩
  · rw [flagsMark, BitVec.getLsbD_or, getLsbD_markBit hi n]
  · rw [flgShift_iterate, flgBit, BitVec.getLsbD_shiftLeft]
    simp [Nat.le_of_lt_succ hi]

/-- The one conditional addition of 1023 is the difference modulo 1023. -/
theorem windowSlot_eq_emod {c d : Nat} (hc : c < 1023) (hd : d ≤ 1023) :
    (windowSlot c d : Int) = ((c : Int) - d) % 1023 := by
  unfold windowSlot
  split <;> omega

/-- Settles O8: each index operation is its one conditional correction by 1023. -/
theorem windowSlotIsDistanceModulo1023 : Obligations.WindowSlotIsDistanceModulo1023 := by
  intro cur hc
  refine ⟨fun d hd => ⟨windowSlot_eq_emod hc hd, Nat.le_of_lt_succ (windowSlot_lt hc hd)⟩, ?_, ?_, windowNext_eq_mod hc,
    fun j hj => windowAdvance_eq hc hj⟩
  · simp [windowSlot]
  · simp [windowSlot, Nat.not_le.2 hc]

end Sys2Proof.Machine

/-! ## A whole copy as the per-byte loop (20_memory.md R51, 44_window_reconstructor.md R158 to R160) -/

namespace Sys2Proof.Machine

theorem Dec.limitTest_of_ne {lim : Option Nat} {d : Dec} (h : lim ≠ some d.ocnt) : Dec.limitTest lim d = d := by
  simp [Dec.limitTest, Dec.atLimit, h]

/-- DEC at the end of a copy from window index `src` that has `n` bytes to go at byte `k`; `Dec.CopyingAt.copyRun` ties it
to the copy engine. -/
def Dec.copyRest (src n k : Nat) (d : Dec) : Dec :=
  let r := Ref.copyLoop src d.cur n k d.win
  { d with
    srcp := windowAt src (k + n), dstp := windowAt d.cur (k + n), rem := 0, stg := r.1.getLastD d.stg
    out := d.out ++ r.1, ocnt := d.ocnt + n, win := r.2, cur := windowAt d.cur (k + n), state := .dispatch }

/-- DEC at byte `k` of a copy from window index `src`, with `n` bytes to go and no limit within them. -/
structure Dec.CopyingAt (lim : Option Nat) (src n k : Nat) (d : Dec) : Prop where
  state : d.state = .copy
  cur : d.cur < 1023
  srcp : d.srcp = windowAt src k
  dstp : d.dstp = windowAt d.cur k
  rem : d.rem = n
  len : d.len.toNat = k + n
  noLimit : ∀ j, 1 ≤ j → j ≤ n → lim ≠ some (d.ocnt + j)

/-- DEC after byte `k` of a copy from window index `src` (R159); `Dec.CopyingAt.copyByte` ties it to `WR.COPY_BYTE`. -/
def Dec.byteCopied (src k : Nat) (d : Dec) : Dec :=
  { d with
    stg := Memory.read Space.win.unlisted d.win (windowAt src k)
    out := d.out ++ [Memory.read Space.win.unlisted d.win (windowAt src k)], ocnt := d.ocnt + 1
    win := Memory.write Space.win.unlisted d.win (windowAt d.cur k)
      (Memory.read Space.win.unlisted d.win (windowAt src k))
    srcp := windowAt src (k + 1), dstp := windowAt d.cur (k + 1), rem := d.rem - 1 }

variable {lim : Option Nat} {src n k : Nat} {d : Dec}

theorem Dec.CopyingAt.copyByte (h : d.CopyingAt lim src n k) : d.copyByte = .ok (d.byteCopied src k) := by
  rw [Dec.copyByte_eq d (h.srcp ▸ windowAt_lt src k) (h.dstp ▸ windowAt_lt d.cur k), h.srcp, h.dstp,
    windowNext_windowAt, windowNext_windowAt]
  rfl

theorem Dec.CopyingAt.copyStep (h : d.CopyingAt lim src (n + 1) k) :
    d.copyStep lim = .ok (if n = 0 then (d.byteCopied src k).copyEnd else d.byteCopied src k) := by
  have hne : lim ≠ some (d.ocnt + 1) := h.noLimit 1 le_rfl (Nat.le_add_left 1 n)
  rw [Dec.copyStep, if_neg (by rw [h.rem]; exact Nat.succ_ne_zero n), h.copyByte]
  simp only [h.rem, Nat.add_eq_right]
  rw [Dec.limitTest_of_ne]
  split <;> exact hne

theorem Dec.CopyingAt.byteCopied (h : d.CopyingAt lim src (n + 1) k) :
    (d.byteCopied src k).CopyingAt lim src n (k + 1) where
  state := h.state
  cur := h.cur
  srcp := rfl
  dstp := rfl
  rem := congrArg (· - 1) h.rem
  len := h.len.trans (by omega)
  noLimit := fun j h1 hj hlim => h.noLimit (j + 1) (by omega) (by omega) (hlim.trans (by simp [Dec.byteCopied]; omega))

/-- The rest of a copy is its next byte and what is left after it (20_memory.md R51). -/
theorem Dec.copyRest_succ (src n k : Nat) (d : Dec) :
    d.copyRest src (n + 1) k = (d.byteCopied src k).copyRest src n (k + 1) := by
  simp only [Dec.copyRest, Dec.byteCopied, Ref.copyLoop, Nat.add_assoc, Nat.add_comm 1, List.getLastD_cons,
    List.append_assoc, List.singleton_append]

/-- The last byte's row moves the cursor as well (R160). -/
theorem Dec.CopyingAt.copyEnd (h : d.CopyingAt lim src 0 k) : d.copyEnd = d.copyRest src 0 k := by
  have hk : windowAdvance d.cur d.len.toNat = windowAt d.cur k := by
    rw [windowAdvance_eq h.cur (Nat.le_of_lt_succ d.len.isLt), h.len, Nat.add_zero]
  simp [Dec.copyEnd, Dec.copyRest, Ref.copyLoop, hk, ← h.srcp, ← h.dstp, h.rem]

/-- A copy runs the per-byte loop to its end. -/
theorem Dec.CopyingAt.copyRun (h : d.CopyingAt lim src (n + 1) k) :
    Dec.copyRun lim (n + 1) d = .ok (d.copyRest src (n + 1) k) := by
  induction n generalizing d k with
  | zero =>
    rw [Dec.copyRun, h.copyStep, Dec.copyRest_succ, ← h.byteCopied.copyEnd]
    rfl
  | succ n ih =>
    rw [Dec.copyRun, h.copyStep, Dec.copyRest_succ, ← ih h.byteCopied, if_neg n.succ_ne_zero]
    exact if_pos h.byteCopied.state

theorem Dec.copyStart_copyingAt (off : BitVec 10) (len : BitVec 6) (hc : d.cur < 1023)
    (hlim : ∀ j, 1 ≤ j → j ≤ len.toNat → lim ≠ some (d.ocnt + j)) :
    (d.latch off len).copyStart.CopyingAt lim (windowSlot d.cur off.toNat) len.toNat 0 where
  state := rfl
  cur := hc
  srcp := (windowAt_zero (windowSlot_lt hc (Nat.le_of_lt_succ off.isLt))).symm
  dstp := (windowAt_zero hc).symm
  rem := rfl
  len := (Nat.zero_add _).symm
  noLimit := hlim

/-- A whole copy with no limit in the way, whatever its offset field (R158 to R160). -/
theorem Dec.copyItem_eq_copied {off : BitVec 10} {len : BitVec 6} (hc : d.cur < 1023) (hlen : len ≠ 0)
    (hlim : ∀ j, 1 ≤ j → j ≤ len.toNat → lim ≠ some (d.ocnt + j)) :
    d.copyItem lim off len = .ok (d.copied off len (windowSlot d.cur off.toNat)) := by
  have hcopy := Dec.copyStart_copyingAt off len hc hlim
  obtain ⟨n, hn⟩ : ∃ n, len.toNat = n + 1 :=
    Nat.exists_eq_succ_of_ne_zero fun h0 => hlen (BitVec.eq_of_toNat_eq h0)
  rw [hn] at hcopy
  rw [Dec.copyItem, hn, hcopy.copyRun]
  simp [Dec.copyRest, Dec.copied, hn, Ref.copyLoop, List.getLast?_cons]

/-- Settles O19: a copy starts at byte 0 of the loop, and each row of the copy engine is one byte of it. -/
theorem copyRunsTheByteLoop : Obligations.CopyRunsTheByteLoop := by
  rintro off len s hc hlen hlim src rfl
  rw [exec_eq_liftDec, Dec.execItem, Dec.copyItem_eq_copied hc hlen hlim]
  rfl

end Sys2Proof.Machine

/-! ## What every step of ENC keeps (20_memory.md R44, R53)

Each operation of ENC, in any state, leaves `IN` and `L` as they are and at most appends to `OUT`. -/

namespace Sys2Proof.Machine

/-- `e'` has the input of `e`, and its output begins with that of `e`. -/
structure Enc.Extends (e e' : Enc) : Prop where
  inMem : e'.inMem = e.inMem
  len : e'.len = e.len
  out : e.out <+: e'.out

theorem Enc.Extends.refl (e : Enc) : e.Extends e := ⟨rfl, rfl, List.prefix_rfl⟩

theorem Enc.Extends.trans {e e1 e2 : Enc} (h1 : e.Extends e1) (h2 : e1.Extends e2) : e.Extends e2 :=
  ⟨h2.inMem.trans h1.inMem, h2.len.trans h1.len, h1.out.trans h2.out⟩

/-- The registers that neither the input nor the output is made of may change. -/
theorem Enc.extends_registers (e : Enc) (state : EncState) (p : Nat) (mf : Mf) (tp : Tp) (pc : Pc) (total csize : Nat) :
    e.Extends { e with state := state, p := p, mf := mf, tp := tp, pc := pc, total := total, csize := csize } :=
  ⟨rfl, rfl, List.prefix_rfl⟩

theorem Enc.emit_extends (e : Enc) (v : Byte) : e.Extends (e.emit v) := ⟨rfl, rfl, List.prefix_append _ _⟩

theorem Enc.stop_extends (e : Enc) : e.Extends e.stop := Enc.extends_registers ..

/-- A step that may be skipped. -/
theorem Enc.extends_ite {c : Prop} [Decidable c] {e e' : Enc} {r : Except Fault Enc}
    (hr : r = .ok e' → e.Extends e') (h : (if c then r else .ok e) = .ok e') : e.Extends e' := by
  split at h
  · exact hr h
  · cases h; exact .refl _

variable {e e' : Enc} {cap n : Nat} {mode : PadMode}

/-! ### The MatchFinder -/

theorem Enc.mfCompare_extends (h : e.mfCompare n = .ok e') : e.Extends e' := by
  induction n generalizing e with
  | zero => cases h; exact .refl _
  | succ n ih =>
    rw [Enc.mfCompare] at h
    refine Enc.extends_ite (fun h => ?_) h
    split at h
    · cases h
    split at h
    · cases h
    exact Enc.extends_ite (fun h => (Enc.extends_registers ..).trans (ih h)) h

theorem Enc.mfTry_extends (h : e.mfTry cap = .ok e') : e.Extends e' :=
  (Enc.extends_registers ..).trans (Enc.mfCompare_extends h)

theorem Enc.mfUpdate_extends (e : Enc) : e.Extends e.mfUpdate := by
  rw [Enc.mfUpdate_frame]
  exact Enc.extends_registers ..

theorem Enc.mfScan_extends (h : e.mfScan cap n = .ok e') : e.Extends e' := by
  induction n generalizing e with
  | zero => cases h; exact .refl _
  | succ n ih =>
    rw [Enc.mfScan] at h
    split at h
    · cases h
    next e1 htry =>
      have h1 : e.Extends e1 := Enc.mfTry_extends htry
      have hnext : e.Extends e1.mfUpdate.mfNext := (h1.trans e1.mfUpdate_extends).trans (Enc.extends_registers ..)
      split at h
      · cases h; exact h1.trans (Enc.extends_registers ..)
      · exact hnext.trans (Enc.extends_ite ih h)

theorem Enc.mfSearch_extends (h : e.mfSearch cap = .ok e') : e.Extends e' := by
  have hinit : e.Extends e.mfInit := Enc.extends_registers ..
  rw [Enc.mfSearch] at h
  split at h
  · cases h; exact hinit
  · exact hinit.trans (Enc.mfScan_extends h)

/-! ### The TokenPacker -/

theorem Enc.writeItem_extends {a : Nat} {v : Byte} (h : e.writeItem a v = .ok e') : e.Extends e' := by
  unfold Enc.writeItem at h
  split at h
  · cases h; exact Enc.extends_registers ..
  · cases h

theorem Enc.putLit_extends (h : e.putLit = .ok e') : e.Extends e' := by
  unfold Enc.putLit at h
  split at h
  · cases h
  split at h
  · cases h
  next hw => cases h; exact (Enc.writeItem_extends hw).trans (Enc.extends_registers ..)

theorem Enc.putToken_extends {o l : Nat} (h : e.putToken o l = .ok e') : e.Extends e' := by
  unfold Enc.putToken at h
  split at h
  · cases h
  next hw1 =>
    split at h
    · cases h
    next hw2 =>
      cases h
      exact ((Enc.writeItem_extends hw1).trans (Enc.writeItem_extends hw2)).trans (Enc.extends_registers ..)

theorem Enc.putMatch_extends {o l : Nat} (h : e.putMatch o l = .ok e') : e.Extends e' := by
  unfold Enc.putMatch at h
  split at h
  · cases h
  next ht => cases h; exact (Enc.putToken_extends ht).trans (Enc.extends_registers ..)

theorem Enc.put_extends {r : Nat × Nat} (h : e.put r = .ok e') : e.Extends e' := by
  unfold Enc.put at h
  split at h
  · exact Enc.putLit_extends h
  · exact Enc.putMatch_extends h

theorem Enc.emitItems_extends {a : Nat} (h : Enc.emitItems a n e = .ok e') : e.Extends e' := by
  induction n generalizing a e with
  | zero => cases h; exact .refl _
  | succ n ih =>
    rw [Enc.emitItems] at h
    split at h
    · cases h
    · exact (Enc.emit_extends _ _).trans (ih h)

theorem Enc.flush_extends (h : e.flush = .ok e') : e.Extends e' := by
  unfold Enc.flush at h
  split at h
  · cases h
  next hi => cases h; exact ((Enc.emit_extends _ _).trans (Enc.emitItems_extends hi)).trans (Enc.extends_registers ..)

theorem Enc.runStep_extends (h : e.runStep cap mode = .ok e') : e.Extends e' := by
  unfold Enc.runStep at h
  split at h
  · cases h; exact Enc.extends_registers ..
  split at h
  · cases h
  next hsearch =>
    split at h
    · cases h
    next hput =>
      exact ((Enc.mfSearch_extends hsearch).trans (Enc.put_extends hput)).trans (Enc.extends_ite Enc.flush_extends h)

/-! ### The tail of a run -/

theorem Enc.nopFillLoop_extends (h : e.nopFillLoop n = .ok e') : e.Extends e' := by
  induction n generalizing e with
  | zero => cases h; exact .refl _
  | succ n ih =>
    rw [Enc.nopFillLoop] at h
    refine Enc.extends_ite (fun h => ?_) h
    split at h
    · cases h
    next ht => exact (Enc.putToken_extends ht).trans (ih h)

theorem Enc.nopFill_extends (h : e.nopFill = .ok e') : e.Extends e' := by
  unfold Enc.nopFill at h
  split at h
  · cases h
  next hfill => cases h; exact (Enc.extends_ite Enc.nopFillLoop_extends hfill).trans (Enc.extends_registers ..)

theorem Enc.finalFlush_extends (h : e.finalFlush mode = .ok e') : e.Extends e' := by
  unfold Enc.finalFlush at h
  split at h
  · cases h
  next hflush =>
    cases h
    rw [Enc.afterFlush_eq]
    exact (Enc.extends_ite Enc.flush_extends hflush).trans (Enc.extends_registers ..)

theorem Enc.zeroPadLoop_extends (n : Nat) (e : Enc) : e.Extends (e.zeroPadLoop n) := by
  induction n generalizing e with
  | zero => exact .refl e
  | succ n ih =>
    rw [Enc.zeroPadLoop]
    split
    · exact (e.emit_extends _).trans (ih _)
    · exact .refl e

theorem Enc.templateLoop_extends (n : Nat) (e : Enc) : e.Extends (e.templateLoop n) := by
  induction n generalizing e with
  | zero => exact .refl e
  | succ n ih => exact ((e.emit_extends _).trans (Enc.extends_registers ..)).trans (ih _)

theorem Enc.templatePad_extends (e : Enc) : e.Extends e.templatePad :=
  ((Enc.extends_registers ..).trans (Enc.templateLoop_extends ..)).trans (Enc.stop_extends _)

/-- Every step of ENC, whatever state it is in. -/
theorem Enc.step_extends (h : e.step cap mode = .ok e') : e.Extends e' := by
  unfold Enc.step at h
  cases hst : e.state <;> rw [hst] at h
  case idle | done => cases h; exact .refl _
  case run => exact Enc.runStep_extends h
  case nopFill => exact Enc.nopFill_extends h
  case finalFlush => exact Enc.finalFlush_extends h
  case zeroPad => cases h; exact (Enc.zeroPadLoop_extends _ e).trans (Enc.stop_extends _)
  case templatePad => cases h; exact e.templatePad_extends

end Sys2Proof.Machine

/-! ## What every step of DEC keeps (20_memory.md R44, R53)

Each operation of DEC, in any state, leaves `SRC` as it is, at most moves `IPOS` forward and at most appends to `OUT`. -/

namespace Sys2Proof.Machine

/-- `d'` has the stream of `d`, is no earlier in it, and its output begins with that of `d`. -/
structure Dec.Extends (d d' : Dec) : Prop where
  src : d'.src = d.src
  ipos : d.ipos ≤ d'.ipos
  out : d.out <+: d'.out

theorem Dec.Extends.refl (d : Dec) : d.Extends d := ⟨rfl, le_rfl, List.prefix_rfl⟩

theorem Dec.Extends.trans {d d1 d2 : Dec} (h1 : d.Extends d1) (h2 : d1.Extends d2) : d.Extends d2 :=
  ⟨h2.src.trans h1.src, h1.ipos.trans h2.ipos, h1.out.trans h2.out⟩

/-- The window and the registers that neither the stream nor the output is made of may change. -/
theorem Dec.extends_registers (d : Dec) (state : DecState) (flg : Byte) (fcnt : Nat) (win : Memory) (cur : Nat) (b1 : Byte)
    (off : BitVec 10) (len : BitVec 6) (srcp dstp rem : Nat) (stg : Byte) (ocnt : Nat) :
    d.Extends { d with
      state := state, flg := flg, fcnt := fcnt, win := win, cur := cur, b1 := b1, off := off, len := len
      srcp := srcp, dstp := dstp, rem := rem, stg := stg, ocnt := ocnt } :=
  ⟨rfl, le_rfl, List.prefix_rfl⟩

theorem Dec.emit_extends (d : Dec) (v : Byte) : d.Extends (d.emit v) := ⟨rfl, le_rfl, List.prefix_append _ _⟩

theorem Dec.stop_extends (d : Dec) : d.Extends d.stop := Dec.extends_registers ..

theorem Dec.limitTest_extends (lim : Option Nat) (d : Dec) : d.Extends (Dec.limitTest lim d) := by
  unfold Dec.limitTest
  split
  · exact d.stop_extends
  · exact .refl d

variable {lim : Option Nat} {d r : Dec}

/-! ### The items -/

theorem Dec.writeWin_extends {a : Nat} {v : Byte} (h : d.writeWin a v = .ok r) : d.Extends r := by
  obtain ⟨-, rfl⟩ := Dec.writeWin_eq_ok h
  exact Dec.extends_registers ..

theorem Dec.wrLit_extends {b : Byte} (h : d.wrLit lim b = .ok r) : d.Extends r := by
  unfold Dec.wrLit at h
  split at h
  · next hw =>
    cases h
    exact ((d.emit_extends b).trans (Dec.writeWin_extends hw)).trans
      ((Dec.extends_registers ..).trans (Dec.limitTest_extends ..))
  · cases h

theorem Dec.copyByte_extends (h : d.copyByte = .ok r) : d.Extends r := by
  unfold Dec.copyByte at h
  split at h
  · cases h
  · split at h
    · cases h
    · next hw =>
      cases h
      exact ((Dec.extends_registers ..).trans (Dec.emit_extends ..)).trans
        ((Dec.writeWin_extends hw).trans (Dec.extends_registers ..))

theorem Dec.copyStep_extends (h : d.copyStep lim = .ok r) : d.Extends r := by
  unfold Dec.copyStep at h
  split at h
  · cases h
  split at h
  · cases h
  next d1 hbyte =>
    cases h
    have hend : d1.Extends (if d.rem = 1 then d1.copyEnd else d1) := by
      split
      · exact Dec.extends_registers ..
      · exact .refl d1
    exact ((Dec.copyByte_extends hbyte).trans hend).trans (Dec.limitTest_extends ..)

theorem Dec.copyRun_extends {n : Nat} (h : Dec.copyRun lim n d = .ok r) : d.Extends r := by
  induction n generalizing d with
  | zero => cases h
  | succ n ih =>
    rw [Dec.copyRun] at h
    split at h
    · cases h
    next hstep =>
      split at h
      · exact (Dec.copyStep_extends hstep).trans (ih h)
      · cases h; exact Dec.copyStep_extends hstep

theorem Dec.copyItem_extends {off : BitVec 10} {len : BitVec 6} (h : d.copyItem lim off len = .ok r) : d.Extends r :=
  (Dec.extends_registers ..).trans (Dec.copyRun_extends h)

theorem Dec.execItem_extends {i : Instr} (h : d.execItem lim i = .ok r) : d.Extends r := by
  cases i with
  | flags f => cases h; exact Dec.extends_registers ..
  | lit b => exact Dec.wrLit_extends h
  | nop off => cases h; exact Dec.extends_registers ..
  | copy off len => exact Dec.copyItem_extends h
  | copy0 len => exact Dec.copyItem_extends h

/-! ### The parser's fetches, each with the item it finds -/

/-- A fetch that goes on with the next byte, if there is one. -/
theorem Dec.readNext_extends {k : Byte → Dec → Fetched} (h : (d.readNext k).perform lim = .ok r)
    (hk : ∀ b d1, (k b d1).perform lim = .ok r → d1.Extends r) : d.Extends r := by
  rw [Dec.readNext] at h
  obtain ⟨hn, -⟩ | ⟨b, hn, -⟩ := d.srcNext_cases <;> rw [hn] at h
  · cases h; exact d.stop_extends
  · have hnext : d.Extends { d with ipos := d.ipos + 1 } := ⟨rfl, Nat.le_succ _, List.prefix_rfl⟩
    exact hnext.trans (hk b _ h)

/-- A fetch whose next byte completes an item. -/
theorem Dec.readNextItem_extends {i : Byte → Dec → Instr}
    (h : (d.readNext fun b d1 => .item (i b d1) d1).perform lim = .ok r) : d.Extends r :=
  Dec.readNext_extends h fun b d1 h => Dec.execItem_extends (i := i b d1) h

theorem Dec.fetchHeader_extends (h : d.fetchHeader.perform lim = .ok r) : d.Extends r := by
  rw [Dec.fetchHeader_eq_readNext] at h
  exact Dec.readNextItem_extends h

theorem Dec.fetchLiteral_extends (h : d.fetchLiteral.perform lim = .ok r) : d.Extends r := by
  rw [Dec.fetchLiteral_eq_readNext] at h
  exact Dec.readNextItem_extends h

theorem Dec.fetchToken2_extends (h : d.fetchToken2.perform lim = .ok r) : d.Extends r := by
  rw [Dec.fetchToken2_eq_readNext] at h
  exact Dec.readNextItem_extends h

theorem Dec.fetchToken1_extends (h : d.fetchToken1.perform lim = .ok r) : d.Extends r := by
  rw [Dec.fetchToken1_eq_readNext] at h
  exact Dec.readNext_extends h fun _ _ h => (Dec.extends_registers ..).trans (Dec.fetchToken2_extends h)

theorem Dec.shift_extends (d : Dec) : d.Extends d.shift := by
  unfold Dec.shift
  split <;> exact Dec.extends_registers ..

theorem Dec.fetchItem_extends (h : d.fetchItem.perform lim = .ok r) : d.Extends r := by
  refine d.shift_extends.trans ?_
  unfold Dec.fetchItem at h
  split at h
  · cases h; exact .refl _
  split at h
  · exact Dec.fetchToken1_extends h
  · exact Dec.fetchLiteral_extends h

/-- Every step of DEC, whatever state it is in. -/
theorem Dec.itemStep_extends (h : d.itemStep lim = .ok r) : d.Extends r := by
  rw [Dec.itemStep_eq_perform, Dec.fetch] at h
  cases hst : d.state <;> rw [hst] at h
  case idle | done => cases h; exact .refl _
  case readFlagByte => exact Dec.fetchHeader_extends h
  case dispatch => exact Dec.fetchItem_extends h
  case readLiteral => exact Dec.fetchLiteral_extends h
  case readToken1 => exact Dec.fetchToken1_extends h
  case readToken2 => exact Dec.fetchToken2_extends h
  case copy => exact Dec.copyRun_extends h

/-- Settles O32: a start lists none of them among its writes, and a step of either engine only extends that engine. -/
theorem inputsAreNeverWritten : Obligations.InputsAreNeverWritten := by
  intro s t h
  cases hop : s.op with
  | compress =>
    obtain ⟨-, -, -, rfl⟩ | ⟨-, e, he, rfl⟩ := (step_compress_eq_next hop).1 h
    · exact ⟨rfl, rfl, rfl, hop, rfl, rfl⟩
    · have hext := Enc.step_extends he
      exact ⟨hext.inMem, hext.len, rfl, hop, rfl, rfl⟩
  | decompress =>
    obtain ⟨-, -, rfl⟩ | ⟨-, d, hd, rfl⟩ := (step_decompress_eq_next hop).1 h
    · exact ⟨rfl, rfl, rfl, hop, rfl, rfl⟩
    · exact ⟨rfl, rfl, (Dec.itemStep_extends hd).src, hop, rfl, rfl⟩

/-- Without a START a step is one step of the engine that `OP` selects, and each engine is extended by what it does. -/
theorem step_extends {s t : State} (hs : s.start = false) (h : step s = .next t) :
    s.enc.Extends t.enc ∧ s.dec.Extends t.dec := by
  cases hop : s.op with
  | compress =>
    obtain ⟨hs', -⟩ | ⟨-, e, he, rfl⟩ := (step_compress_eq_next hop).1 h
    · simp [hs] at hs'
    · exact ⟨Enc.step_extends he, .refl s.dec⟩
  | decompress =>
    obtain ⟨hs', -⟩ | ⟨-, d, hd, rfl⟩ := (step_decompress_eq_next hop).1 h
    · simp [hs] at hs'
    · exact ⟨.refl s.enc, Dec.itemStep_extends hd⟩

/-- Settles O33: a step without a START extends both engines. -/
theorem outputsOnlyGrow : Obligations.OutputsOnlyGrow := by
  intro s t hs h
  obtain ⟨henc, hdec⟩ := step_extends hs h
  exact ⟨henc.out, hdec.out, hdec.ipos, hdec.src⟩

end Sys2Proof.Machine

/-! ## The encoder and the decoder (30_encoding.md R61 to R68) -/

namespace Sys2Proof

/-! ### The token's bytes and fields (R64, R65) -/

theorem unpackLength_pack (off : BitVec 10) (len : BitVec 6) : unpackLength (packByte1 off.toNat len.toNat) = len := by
  apply BitVec.eq_of_toNat_eq
  rw [unpackLength_toNat, packByte1_toNat off.isLt len.isLt]
  have := off.isLt
  omega

theorem unpackOffset_pack (off : BitVec 10) (len : BitVec 6) :
    unpackOffset (packByte1 off.toNat len.toNat) (packByte2 off.toNat) = off := by
  apply BitVec.eq_of_toNat_eq
  rw [unpackOffset_toNat, packByte1_toNat off.isLt len.isLt, packByte2_toNat]
  have := off.isLt
  omega

theorem packByte1_unpack (b1 b2 : Byte) : packByte1 (unpackOffset b1 b2).toNat (unpackLength b1).toNat = b1 := by
  apply BitVec.eq_of_toNat_eq
  rw [packByte1_toNat (unpackOffset b1 b2).isLt (unpackLength b1).isLt, unpackOffset_toNat, unpackLength_toNat]
  have := b2.isLt
  omega

theorem packByte2_unpack (b1 b2 : Byte) : packByte2 (unpackOffset b1 b2).toNat = b2 := by
  apply BitVec.eq_of_toNat_eq
  rw [packByte2_toNat, unpackOffset_toNat]
  have := b2.isLt
  omega

/-! ### Tokens (R68) -/

/-- The bytes of two fields decode to the row that the fields select. -/
theorem decodeToken_pack (off : BitVec 10) (len : BitVec 6) :
    decodeToken (packByte1 off.toNat len.toNat) (packByte2 off.toNat) =
      if len = 0 then .nop off else if off = 0 then .copy0 len else .copy off len := by
  rw [decodeToken, unpackLength_pack, unpackOffset_pack]

theorem Instr.wf_copy {off : BitVec 10} {len : BitVec 6} : (Instr.copy off len).wf = true ↔ off ≠ 0 ∧ len ≠ 0 := by
  simp [Instr.wf]

theorem Instr.wf_copy0 {len : BitVec 6} : (Instr.copy0 len).wf = true ↔ len ≠ 0 := by
  simp [Instr.wf]

/-- Whichever row a token is of, its two fields are those of its bytes. -/
theorem encode_decodeToken (b1 b2 : Byte) : encode (decodeToken b1 b2) = [b1, b2] := by
  have hbytes : [packByte1 (unpackOffset b1 b2).toNat (unpackLength b1).toNat, packByte2 (unpackOffset b1 b2).toNat] =
      [b1, b2] := by rw [packByte1_unpack, packByte2_unpack]
  obtain ⟨hl, hi⟩ | ⟨-, ho, hi⟩ | ⟨-, -, hi⟩ := decodeToken_cases b1 b2
  · rw [hl] at hbytes; rw [hi]; exact hbytes
  · rw [ho] at hbytes; rw [hi]; exact hbytes
  · rw [hi]; exact hbytes

@[simp] theorem slot_decodeToken (b1 b2 : Byte) : (decodeToken b1 b2).slot = .item true := by
  obtain ⟨-, hi⟩ | ⟨-, -, hi⟩ | ⟨-, -, hi⟩ := decodeToken_cases b1 b2 <;> rw [hi] <;> rfl

@[simp] theorem size_decodeToken (b1 b2 : Byte) : (decodeToken b1 b2).size = 2 := by
  obtain ⟨-, hi⟩ | ⟨-, -, hi⟩ | ⟨-, -, hi⟩ := decodeToken_cases b1 b2 <;> rw [hi] <;> rfl

@[simp] theorem wf_decodeToken (b1 b2 : Byte) : (decodeToken b1 b2).wf = true := by
  obtain ⟨-, hi⟩ | ⟨hl, -, hi⟩ | ⟨hl, ho, hi⟩ := decodeToken_cases b1 b2 <;> rw [hi]
  · rfl
  · exact Instr.wf_copy0.2 hl
  · exact Instr.wf_copy.2 ⟨ho, hl⟩

/-! ### Whole instructions -/

/-- A well-formed instruction is a flag byte, a literal, or what two bytes of a token decode to. -/
theorem Instr.cases_of_wf {i : Instr} (h : i.wf = true) :
    (∃ f, i = .flags f) ∨ (∃ b, i = .lit b) ∨ ∃ b1 b2, i = decodeToken b1 b2 := by
  cases i with
  | flags f => exact .inl ⟨f, rfl⟩
  | lit b => exact .inr (.inl ⟨b, rfl⟩)
  | nop off => exact .inr (.inr ⟨_, _, (decodeToken_pack off 0#6).symm⟩)
  | copy off len =>
    obtain ⟨ho, hl⟩ := Instr.wf_copy.1 h
    exact .inr (.inr ⟨_, _, ((decodeToken_pack off len).trans (by rw [if_neg hl, if_neg ho])).symm⟩)
  | copy0 len =>
    exact .inr (.inr ⟨_, _, ((decodeToken_pack 0#10 len).trans (if_neg (Instr.wf_copy0.1 h))).symm⟩)

/-- All that the decoder reads, slot by slot (R66, R68). -/
theorem decode_eq_ok {sl : Slot} {bs rest : Bytes} {i : Instr} (h : decode sl bs = .ok (i, rest)) :
    (∃ f, sl = .header ∧ bs = f :: rest ∧ i = .flags f) ∨
    (∃ b, sl = .item false ∧ bs = b :: rest ∧ i = .lit b) ∨
    ∃ b1 b2, sl = .item true ∧ bs = b1 :: b2 :: rest ∧ i = decodeToken b1 b2 := by
  unfold decode at h
  split at h <;> cases h
  · exact .inl ⟨_, rfl, rfl, rfl⟩
  · exact .inr (.inl ⟨_, rfl, rfl, rfl⟩)
  · exact .inr (.inr ⟨_, _, rfl, rfl, rfl⟩)

theorem decode_encode {i : Instr} (h : i.wf = true) (rest : Bytes) : decode i.slot (encode i ++ rest) = .ok (i, rest) := by
  obtain ⟨f, rfl⟩ | ⟨b, rfl⟩ | ⟨b1, b2, rfl⟩ := Instr.cases_of_wf h
  · rfl
  · rfl
  · rw [slot_decodeToken, encode_decodeToken]; rfl

theorem decode_encode_alone {i : Instr} (h : i.wf = true) : decode i.slot (encode i) = .ok (i, []) :=
  List.append_nil (encode i) ▸ decode_encode h []

/-- Settles O1: a well-formed instruction is one that some bytes decode to, and those bytes are its encoding. -/
theorem decodeOfEncodeIsTheInstruction : Obligations.DecodeOfEncodeIsTheInstruction := fun _ h => decode_encode h

/-- Settles O2: in each slot the bytes read are the operand's, or a token's two fields. -/
theorem encodeOfDecodeIsTheBytes : Obligations.EncodeOfDecodeIsTheBytes := by
  intro sl bs rest i h
  obtain ⟨f, rfl, rfl, rfl⟩ | ⟨b, rfl, rfl, rfl⟩ | ⟨b1, b2, rfl, rfl, rfl⟩ := decode_eq_ok h
  · exact ⟨rfl, rfl, rfl⟩
  · exact ⟨rfl, rfl, rfl⟩
  · exact ⟨slot_decodeToken b1 b2, wf_decodeToken b1 b2, by rw [encode_decodeToken]; rfl⟩

/-- Settles O5: seven words of the formats and the test vectors, evaluated. -/
theorem handWrittenWordsDecode : Obligations.HandWrittenWordsDecode := by
  unfold Obligations.HandWrittenWordsDecode
  decide

end Sys2Proof

/-! ## Every well-formed instruction answers a next state (30_encoding.md R69) -/

namespace Sys2Proof.Machine

variable {lim : Option Nat} {src n k : Nat} {d : Dec}

/-- An engine still in `Copy` after the limit test was not stopped by it. -/
theorem Dec.limitTest_eq_of_copy (h : (Dec.limitTest lim d).state = .copy) : Dec.limitTest lim d = d := by
  unfold Dec.limitTest at h ⊢
  split at h
  · cases h
  · next hlim => exact if_neg hlim

/-- A copy answers under any limit: each row reads and writes inside the window, and the last byte's row leaves `Copy`. -/
theorem Dec.CopyingAt.copyRun_answers (h : d.CopyingAt none src (n + 1) k) (lim : Option Nat) :
    ∃ r, Dec.copyRun lim (n + 1) d = .ok r := by
  induction n generalizing d k with
  | zero =>
    have hstep : d.copyStep lim = .ok (Dec.limitTest lim (d.byteCopied src k).copyEnd) := by
      simp [Dec.copyStep, h.rem, h.copyByte]
    rw [Dec.copyRun, hstep]
    have hne : (Dec.limitTest lim (d.byteCopied src k).copyEnd).state ≠ .copy := fun hc => by
      rw [Dec.limitTest_eq_of_copy hc] at hc; cases hc
    exact ⟨_, if_neg hne⟩
  | succ n ih =>
    have hstep : d.copyStep lim = .ok (Dec.limitTest lim (d.byteCopied src k)) := by
      simp [Dec.copyStep, h.rem, h.copyByte]
    rw [Dec.copyRun, hstep]
    dsimp only
    split
    · next hc => rw [Dec.limitTest_eq_of_copy hc]; exact ih h.byteCopied
    · exact ⟨_, rfl⟩

theorem Dec.copyItem_answers (lim : Option Nat) (off : BitVec 10) {len : BitVec 6} (hc : d.cur < 1023) (hlen : len ≠ 0) :
    ∃ r, d.copyItem lim off len = .ok r := by
  have hcopy := Dec.copyStart_copyingAt (lim := none) off len hc (by simp)
  obtain ⟨n, hn⟩ : ∃ n, len.toNat = n + 1 :=
    Nat.exists_eq_succ_of_ne_zero fun h0 => hlen (BitVec.eq_of_toNat_eq h0)
  rw [hn] at hcopy
  rw [Dec.copyItem, hn]
  exact hcopy.copyRun_answers lim

theorem Dec.execItem_answers (lim : Option Nat) {i : Instr} (hc : d.cur < 1023) (hwf : i.wf = true) :
    ∃ r, d.execItem lim i = .ok r := by
  cases i with
  | flags f => exact ⟨_, rfl⟩
  | lit b => exact ⟨_, d.wrLit_eq lim b hc⟩
  | nop off => exact ⟨_, rfl⟩
  | copy off len =>
    obtain ⟨-, hl⟩ := Instr.wf_copy.1 hwf
    exact Dec.copyItem_answers lim off hc hl
  | copy0 len => exact Dec.copyItem_answers lim 0#10 hc (Instr.wf_copy0.1 hwf)

theorem exec_answers {s : State} {i : Instr} (hc : s.dec.cur < 1023) (hwf : i.wf = true) : ∃ t, exec i s = .next t := by
  obtain ⟨r, hr⟩ := Dec.execItem_answers s.outLimit hc hwf
  exact ⟨_, by rw [exec_eq_liftDec, hr]; rfl⟩

/-- Settles O3: the bytes decode by the decoder's own equations, to a well-formed instruction, and the invariant keeps the
cursor in the window, which is all that such an instruction needs. -/
theorem noByteOrTokenIsIllegal : Obligations.NoByteOrTokenIsIllegal := by
  intro s hs
  have hexec {i : Instr} : i.wf = true → ∃ t, exec i s = .next t := exec_answers hs.dec.cur
  refine ⟨fun f _ => ?_, fun b _ => ?_, fun b1 b2 _ => ?_⟩
  · obtain ⟨t, ht⟩ := hexec (i := .flags f) rfl
    exact ⟨_, t, rfl, ht⟩
  · obtain ⟨t, ht⟩ := hexec (i := .lit b) rfl
    exact ⟨_, t, rfl, ht⟩
  · obtain ⟨t, ht⟩ := hexec (wf_decodeToken b1 b2)
    exact ⟨_, t, rfl, ht⟩

end Sys2Proof.Machine

/-! ## The opcode table's words (30_encoding.md R76) -/

namespace Sys2Proof

theorem tableWord_flags (f : Byte) : tableWord (.flags f) = f.toNat := by
  simp [tableWord, encode, Instr.slot]

theorem tableWord_lit (b : Byte) : tableWord (.lit b) = b.toNat := by
  simp [tableWord, encode, Instr.slot]

theorem tableWord_decodeToken (b1 b2 : Byte) :
    tableWord (decodeToken b1 b2) = 0x10000 + b1.toNat * 256 + b2.toNat := by
  simp [tableWord, encode_decodeToken, Nat.add_assoc]

theorem tableLayout_lit (b : Byte) : tableLayout 16 b.toNat = some (.item false, [b]) := by
  have hb := b.isLt
  have hflag : b.toNat.testBit 8 = false := Nat.testBit_lt_two_pow hb
  simp [tableLayout, hflag, show b.toNat < 512 by omega]

theorem tableLayout_token (b1 b2 : Byte) :
    tableLayout 24 (0x10000 + b1.toNat * 256 + b2.toNat) = some (.item true, [b1, b2]) := by
  have h1 := b1.isLt
  have h2 := b2.isLt
  have hflag : (0x10000 + b1.toNat * 256 + b2.toNat).testBit 16 = true := by
    rw [Nat.testBit_eq_decide_div_mod_eq, decide_eq_true_eq]
    omega
  have hbyte1 : BitVec.ofNat 8 ((0x10000 + b1.toNat * 256 + b2.toNat) >>> 8) = b1 := by
    apply BitVec.eq_of_toNat_eq
    rw [BitVec.toNat_ofNat, Nat.shiftRight_eq_div_pow]
    omega
  have hbyte2 : BitVec.ofNat 8 (0x10000 + b1.toNat * 256 + b2.toNat) = b2 := by
    apply BitVec.eq_of_toNat_eq
    rw [BitVec.toNat_ofNat]
    omega
  rw [tableLayout, if_neg (by decide), if_neg (by decide), if_pos (by decide), if_pos (by omega), hflag, hbyte1, hbyte2]

/-- A table word lies in the machine as its instruction's slot and bytes. -/
theorem tableLayout_tableWord {i : Instr} (h : i.wf = true) :
    tableLayout i.tableBits (tableWord i) = some (i.slot, encode i) := by
  obtain ⟨f, rfl⟩ | ⟨b, rfl⟩ | ⟨b1, b2, rfl⟩ := Instr.cases_of_wf h
  · rw [tableWord_flags]
    simp [tableLayout, Instr.tableBits, Instr.slot, encode, f.isLt]
  · rw [tableWord_lit]
    exact tableLayout_lit b
  · rw [tableWord_decodeToken, Instr.tableBits, slot_decodeToken, size_decodeToken, encode_decodeToken]
    exact tableLayout_token b1 b2

theorem decodeTableWord_tableWord {i : Instr} (h : i.wf = true) : decodeTableWord i.tableBits (tableWord i) = some i := by
  simp only [decodeTableWord, tableLayout_tableWord h, decode_encode_alone h]

/-! ### The rows' masks -/

/-- Two numbers cut at bit `k` are masked piece by piece. -/
theorem two_pow_mul_add_and {k a b m n : Nat} (hb : b < 2 ^ k) (hn : n < 2 ^ k) :
    (2 ^ k * a + b) &&& (2 ^ k * m + n) = 2 ^ k * (a &&& m) + (b &&& n) := by
  rw [← Nat.div_add_mod ((2 ^ k * a + b) &&& (2 ^ k * m + n)) (2 ^ k), Nat.and_div_two_pow, Nat.and_mod_two_pow]
  simp [Nat.mul_add_div, Nat.div_eq_of_lt, Nat.mod_eq_of_lt, hb, hn]

/-- The mnemonics of the table's rows of the given width that select a bit string (R76). -/
def rowsSelecting (width x : Nat) : List String :=
  (opcodeTable.filter fun r => r.width == width && r.selects x).map (·.mnemonic)

/-- The one row of a literal's width sees a flag bit that is 0. -/
theorem rowsSelecting_lit (b : Byte) : rowsSelecting 9 b.toNat = ["LIT"] := by
  have hmask : b.toNat &&& 0x100 = 0x000 := by
    simpa using two_pow_mul_add_and (k := 8) (a := 0) (m := 1) (n := 0) b.isLt (by decide)
  simp [rowsSelecting, opcodeTable, OpcodeRow.selects, hmask]

/-- The bit string of a token with the given fields: the flag bit, the length field in bits 15..10, the offset field in bits
9..0; `tokenWord_unpack` ties it to the token's bytes. -/
def tokenWord (off : BitVec 10) (len : BitVec 6) : Nat := 2 ^ 10 * (64 + len.toNat) + off.toNat

theorem tokenWord_unpack (b1 b2 : Byte) :
    tokenWord (unpackOffset b1 b2) (unpackLength b1) = 0x10000 + b1.toNat * 256 + b2.toNat := by
  rw [tokenWord, unpackLength_toNat, unpackOffset_toNat]
  omega

theorem tokenWord_lengthField (off : BitVec 10) (len : BitVec 6) : tokenWord off len >>> 10 % 64 = len.toNat := by
  have := off.isLt
  have := len.isLt
  rw [tokenWord, Nat.shiftRight_eq_div_pow]
  omega

theorem tokenWord_offsetField (off : BitVec 10) (len : BitVec 6) : tokenWord off len % 1024 = off.toNat := by
  have := off.isLt
  rw [tokenWord]
  omega

/-- A row's mask on a token: the part over the flag bit and the length field, and the part over the offset field. -/
theorem tokenWord_and (off : BitVec 10) (len : BitVec 6) (m : Nat) {n : Nat} (hn : n < 2 ^ 10) :
    tokenWord off len &&& (2 ^ 10 * m + n) = 2 ^ 10 * ((64 + len.toNat) &&& m) + (off.toNat &&& n) :=
  two_pow_mul_add_and off.isLt hn

theorem flagBit_and (len : BitVec 6) : (64 + len.toNat) &&& 64 = 64 := by
  simpa using two_pow_mul_add_and (k := 6) (a := 1) (m := 1) (n := 0) len.isLt (by decide)

/-- A row selects a token by its mask and by which of the two fields are 0. -/
theorem OpcodeRow.selects_tokenWord (r : OpcodeRow) (off : BitVec 10) (len : BitVec 6) :
    r.selects (tokenWord off len) =
      (tokenWord off len &&& r.mask == r.pattern && (r.lenZero.all fun z => decide (len = 0#6) == z)
        && (r.offZero.all fun z => decide (off = 0#10) == z)) := by
  rw [OpcodeRow.selects, tokenWord_lengthField, tokenWord_offsetField]
  simp only [beq_eq_decide (α := Nat), BitVec.toNat_eq, BitVec.toNat_ofNat, Nat.zero_mod]

theorem rowsSelecting_nop (off : BitVec 10) : rowsSelecting 17 (tokenWord off 0#6) = ["NOP"] := by
  have hmask : tokenWord off 0#6 &&& 0x1FC00 = 0x10000 := by
    simpa using tokenWord_and off 0#6 127 (n := 0) (by decide)
  simp [rowsSelecting, opcodeTable, OpcodeRow.selects_tokenWord, hmask]

theorem rowsSelecting_copy {off : BitVec 10} {len : BitVec 6} (ho : off ≠ 0#10) (hl : len ≠ 0#6) :
    rowsSelecting 17 (tokenWord off len) = ["COPY"] := by
  have hmask : tokenWord off len &&& 0x10000 = 0x10000 := by
    simpa [flagBit_and] using tokenWord_and off len 64 (n := 0) (by decide)
  simp [rowsSelecting, opcodeTable, OpcodeRow.selects_tokenWord, ho, hl, hmask]

theorem rowsSelecting_copy0 {len : BitVec 6} (hl : len ≠ 0#6) : rowsSelecting 17 (tokenWord 0#10 len) = ["COPY0"] := by
  have hmask : tokenWord 0#10 len &&& 0x103FF = 0x10000 := by
    simpa [flagBit_and] using tokenWord_and 0#10 len 64 (n := 0x3FF) (by decide)
  simp [rowsSelecting, opcodeTable, OpcodeRow.selects_tokenWord, hl, hmask]

/-- Of the rows of a token's width the decoder's own is the one whose constraints the fields meet. -/
theorem rowsSelecting_token (b1 b2 : Byte) :
    rowsSelecting 17 (0x10000 + b1.toNat * 256 + b2.toNat) = [(decodeToken b1 b2).mnemonic] := by
  rw [← tokenWord_unpack]
  obtain ⟨hl, hi⟩ | ⟨hl, ho, hi⟩ | ⟨hl, ho, hi⟩ := decodeToken_cases b1 b2 <;> rw [hi]
  · rw [hl]; exact rowsSelecting_nop _
  · rw [ho]; exact rowsSelecting_copy0 hl
  · exact rowsSelecting_copy ho hl

/-- Settles O4: the one row of a literal's width, and of a token's the one whose constraints its fields meet. -/
theorem decodedItemIsTheTableRow : Obligations.DecodedItemIsTheTableRow :=
  ⟨fun b => ⟨tableWord_lit b, rowsSelecting_lit b⟩, fun b1 b2 => ⟨tableWord_decodeToken b1 b2, rowsSelecting_token b1 b2⟩⟩

end Sys2Proof

/-! ## A placed word is run next (30_encoding.md R76, logs 6 and 16) -/

namespace Sys2Proof.Machine

/-- Placing an item puts its flag bit on top of the shift register. -/
@[simp] theorem flgBit_placed (flag : Bool) (bs : Bytes) (d : Dec) : flgBit (d.placed (.item flag) bs).flg = flag := by
  cases flag <;> simp [Dec.placed, flgBit]

/-- A placed item is fetched as its flag bit says (43_token_parser.md R138). -/
theorem Dec.fetch_placed_item (flag : Bool) (bs : Bytes) (d : Dec) :
    (d.placed (.item flag) bs).fetch =
      if flag then (d.placed (.item flag) bs).shift.fetchToken1 else (d.placed (.item flag) bs).shift.fetchLiteral :=
  calc (d.placed (.item flag) bs).fetch
    _ = (d.placed (.item flag) bs).fetchItem := rfl
    _ = _ := if_neg one_ne_zero
    _ = _ := by rw [flgBit_placed]

/-- From where an instruction is placed, the parser finds it and moves only its own registers. -/
theorem Dec.fetch_placed {sl : Slot} {bs : Bytes} {i : Instr} (h : decode sl bs = .ok (i, [])) (d : Dec) :
    ∃ d1, (d.placed sl bs).fetch = .item i d1 ∧ d1.win = d.win ∧ d1.cur = d.cur ∧ d1.out = d.out ∧ d1.ocnt = d.ocnt := by
  obtain ⟨f, rfl, rfl, rfl⟩ | ⟨b, rfl, rfl, rfl⟩ | ⟨b1, b2, rfl, rfl, rfl⟩ := decode_eq_ok h
  · exact ⟨_, rfl, rfl, rfl, rfl, rfl⟩
  · exact ⟨_, d.fetch_placed_item false [b], rfl, rfl, rfl, rfl⟩
  · exact ⟨_, d.fetch_placed_item true [b1, b2], rfl, rfl, rfl, rfl⟩

/-- Settles O6: the word's layout is the instruction's slot and bytes, and from there the parser finds the instruction. -/
theorem placedWordIsRunNext : Obligations.PlacedWordIsRunNext := by
  intro i s hwf
  obtain ⟨d, hfetch, hframe⟩ := Dec.fetch_placed (decode_encode_alone hwf) s.dec
  refine ⟨decodeTableWord_tableWord hwf, d, ?_, hframe⟩
  rw [State.withFetchWord, placeWord, tableLayout_tableWord hwf]
  simp [step, decStep, hfetch]

end Sys2Proof.Machine

/-! ## The search in closed form (40_match_finder.md R80, R82, R87 to R94) -/

namespace Sys2Proof.Machine

/-! ### The first of the longest runs -/

/-- `MF.UPDATE` on the best match alone, for runs `f` (R87). `scanFrom_eq` ties it to the scan. -/
def improve (f : Nat → Nat) (best : Nat × Nat) (o : Nat) : Nat × Nat := if best.2 < f o then (o, f o) else best

variable {f : Nat → Nat} {b : Nat × Nat} {l : List Nat}

theorem improve_snd (f : Nat → Nat) (b : Nat × Nat) (o : Nat) : (improve f b o).2 = max b.2 (f o) := by
  unfold improve
  split
  · next h => exact (max_eq_right h.le).symm
  · next h => exact (max_eq_left (not_lt.1 h)).symm

/-- The length kept is the largest run. -/
theorem foldl_improve_snd (f : Nat → Nat) (b : Nat × Nat) (l : List Nat) :
    (l.foldl (improve f) b).2 = l.foldl (fun m o => max m (f o)) b.2 := by
  induction l generalizing b with
  | nil => rfl
  | cons o l ih => rw [List.foldl_cons, List.foldl_cons, ih, improve_snd]

theorem le_foldl_improve (f : Nat → Nat) (b : Nat × Nat) (l : List Nat) :
    b.2 ≤ (l.foldl (improve f) b).2 ∧ ∀ o ∈ l, f o ≤ (l.foldl (improve f) b).2 := by
  induction l generalizing b with
  | nil => simp
  | cons o l ih =>
    obtain ⟨hstart, hrest⟩ := ih (improve f b o)
    rw [improve_snd, max_le_iff] at hstart
    exact ⟨hstart.1, List.forall_mem_cons.2 ⟨hstart.2, hrest⟩⟩

/-- Improvement is strict: what no run exceeds is kept. -/
theorem foldl_improve_eq_self (h : ∀ o ∈ l, f o ≤ b.2) : l.foldl (improve f) b = b := by
  induction l with
  | nil => rfl
  | cons o l ih =>
    obtain ⟨ho, hl⟩ := List.forall_mem_cons.1 h
    rw [List.foldl_cons, improve, if_neg (not_lt.2 ho), ih hl]

/-- The offset kept is the first that has the largest run (R87). -/
theorem find?_foldl_improve (h : b.2 < (l.foldl (improve f) b).2) :
    l.find? (fun o => f o = (l.foldl (improve f) b).2) = some (l.foldl (improve f) b).1 := by
  induction l generalizing b with
  | nil => exact absurd h (lt_irrefl _)
  | cons o l ih =>
    rw [List.foldl_cons] at h ⊢
    have hsnd := improve_snd f b o
    by_cases hlonger : (improve f b o).2 < (l.foldl (improve f) (improve f b o)).2
    · have hne : f o ≠ (l.foldl (improve f) (improve f b o)).2 := by omega
      rw [List.find?_cons_of_neg (by simpa using hne), ih hlonger]
    · have hrest := (le_foldl_improve f (improve f b o) l).2
      rw [foldl_improve_eq_self fun o' ho' => (hrest o' ho').trans (not_lt.1 hlonger)] at h ⊢
      have himp : improve f b o = (o, f o) := if_pos (by omega)
      rw [himp, List.find?_cons_of_pos (by simp)]

/-! ### The scan -/

/-- Where the scan of a list of offsets ends: at the first whose run reaches 64, else with the first of the longest runs
(R87, R88, R90). `scanFrom_eq` and `searchResult_eq` tie it to the scan. -/
def scanned (f : Nat → Nat) (best : Nat × Nat) (l : List Nat) : Nat × Nat :=
  (l.find? fun o => 64 ≤ f o).elim (l.foldl (improve f) best) fun o => (o, 63)

theorem scanned_cons (f : Nat → Nat) (best : Nat × Nat) (o : Nat) (l : List Nat) :
    scanned f best (o :: l) = if 64 ≤ f o then (o, 63) else scanned f (improve f best o) l := by
  unfold scanned
  by_cases h : 64 ≤ f o
  · rw [if_pos h, List.find?_cons_of_pos (by simpa using h)]; rfl
  · rw [if_neg h, List.find?_cons_of_neg (by simpa using h)]; rfl

variable {inp : Bytes} {cap p : Nat}

theorem scanFrom_eq {n o k : Nat} (best : Nat × Nat) (hk : o + k = min p 1023) (hn : k < n) :
    scanFrom inp cap p n o best = scanned (Ref.run inp cap p) best (List.range' o (k + 1)) := by
  induction n generalizing o k best with
  | zero => exact absurd hn (Nat.not_lt_zero k)
  | succ n ih =>
    rw [scanFrom, List.range'_succ, scanned_cons]
    refine if_congr Iff.rfl rfl ?_
    cases k with
    | zero => exact if_neg (by omega)
    | succ k => exact (if_pos (by omega)).trans (ih _ (by omega) (by omega))

theorem searchResult_eq (inp : Bytes) (cap p : Nat) :
    searchResult inp cap p =
      let best := scanned (Ref.run inp cap p) (0, 0) (Ref.offsets p)
      if 3 ≤ best.2 then best else (0, 0) := by
  have hscan : (if min p 1023 < 3 then (0, 0) else scanFrom inp cap p (min p 1023) 3 (0, 0)) =
      scanned (Ref.run inp cap p) (0, 0) (Ref.offsets p) := by
    rw [Ref.offsets]
    split
    · next h => rw [show min p 1023 - 2 = 0 by omega]; rfl
    · next h =>
      rw [scanFrom_eq (k := min p 1023 - 3) _ (by omega) (by omega)]
      congr 2
      omega
  rw [searchResult, hscan]

/-- What the search answers is the closed form (R91). -/
theorem searchResult_eq_bestMatch (inp : Bytes) (cap p : Nat) : searchResult inp cap p = Ref.bestMatch inp cap p := by
  rw [searchResult_eq, scanned, Ref.bestMatch]
  cases (Ref.offsets p).find? fun o => 64 ≤ Ref.run inp cap p o with
  | some o => rfl
  | none =>
    have hlen : ((Ref.offsets p).foldl (improve (Ref.run inp cap p)) (0, 0)).2 = Ref.bestRun inp cap p :=
      foldl_improve_snd ..
    simp only [Option.elim_none, hlen]
    by_cases h : Ref.bestRun inp cap p < 3
    · rw [if_pos h, if_neg (not_le.2 h)]
    · have hfirst := find?_foldl_improve (f := Ref.run inp cap p) (b := (0, 0)) (l := Ref.offsets p) (by omega)
      rw [hlen] at hfirst
      rw [if_neg h, if_pos (not_lt.1 h), hfirst, ← hlen]

/-- Settles O43: a fold over the candidate offsets is what the scan keeps and what the closed form finds. -/
theorem searchIsTheClosedForm : Obligations.SearchIsTheClosedForm := by
  intro e cap _ hp
  obtain ⟨m, hsearch, -, -, hresult⟩ := e.mfSearch_spec cap hp
  exact ⟨_, hsearch, hresult.trans (searchResult_eq_bestMatch ..)⟩

/-! ### What a match in closed form says (R87, R88, R94) -/

/-- Bytes that a run counts are equal (R85). -/
theorem Ref.getD_of_lt_runLength {n i j k : Nat} (h : k < Ref.runLength inp i j n) :
    inp.getD (i + k) 0 = inp.getD (j + k) 0 := by
  induction n generalizing i j k with
  | zero => exact absurd h (Nat.not_lt_zero k)
  | succ n ih =>
    rw [Ref.runLength] at h
    split at h
    · next heq =>
      cases k with
      | zero => exact heq
      | succ k =>
        have := ih (i := i + 1) (j := j + 1) (k := k) (by omega)
        rwa [Nat.add_right_comm, Nat.add_right_comm j] at this
    · exact absurd h (Nat.not_lt_zero k)

theorem Ref.getElem?_of_lt_run {o k : Nat} (ho : o ≤ p) (h : k < Ref.run inp cap p o) :
    inp[p - o + k]? = inp[p + k]? := by
  have hle := Ref.run_le inp cap p o
  have hbyte := Ref.getD_of_lt_runLength h
  have hi : p - o + k < inp.length := by omega
  have hj : p + k < inp.length := by omega
  rw [List.getD_eq_getElem _ _ hi, List.getD_eq_getElem _ _ hj] at hbyte
  rw [List.getElem?_eq_getElem hi, List.getElem?_eq_getElem hj, hbyte]

theorem Ref.mem_offsets {o : Nat} : o ∈ Ref.offsets p ↔ 3 ≤ o ∧ o ≤ min p 1023 := by
  rw [Ref.offsets, List.mem_range'_1]
  omega

/-- What the closed form says of the match it answers (R87, R88, R91): `Ref.isMatch_of_bestMatch`. -/
structure Ref.IsMatch (inp : Bytes) (cap p o l : Nat) : Prop where
  mem : o ∈ Ref.offsets p
  length : l = min (Ref.run inp cap p o) 63
  minLength : 3 ≤ l
  earlier : ∀ o', 3 ≤ o' → o' < o → Ref.run inp cap p o' ≤ 63 ∧ Ref.run inp cap p o' < Ref.run inp cap p o

/-- `find?` on the candidate offsets answers the smallest that meets the condition. -/
theorem Ref.find?_offsets {q : Nat → Prop} [DecidablePred q] {o : Nat}
    (h : (Ref.offsets p).find? (fun o => q o) = some o) :
    q o ∧ o ∈ Ref.offsets p ∧ ∀ o', 3 ≤ o' → o' < o → ¬ q o' := by
  simpa [Ref.offsets] using List.find?_range'_eq_some.1 h

theorem Ref.run_le_bestRun {o : Nat} (h : o ∈ Ref.offsets p) : Ref.run inp cap p o ≤ Ref.bestRun inp cap p := by
  have := (le_foldl_improve (Ref.run inp cap p) (0, 0) (Ref.offsets p)).2 o h
  rwa [foldl_improve_snd] at this

theorem Ref.isMatch_of_bestMatch {o l : Nat} (h : Ref.bestMatch inp cap p = (o, l)) (hne : (o, l) ≠ (0, 0)) :
    Ref.IsMatch inp cap p o l := by
  rw [Ref.bestMatch] at h
  split at h
  · next o1 hfind =>
    obtain ⟨rfl, rfl⟩ := Prod.mk.inj h
    obtain ⟨hrun, hmem, hearlier⟩ := Ref.find?_offsets hfind
    refine ⟨hmem, by omega, by omega, fun o' h3 ho' => ?_⟩
    have := hearlier o' h3 ho'
    omega
  · next hnone =>
    have hle63 : ∀ o' ∈ Ref.offsets p, Ref.run inp cap p o' ≤ 63 := by
      simpa [Nat.lt_succ_iff] using hnone
    split at h
    · exact absurd h.symm hne
    next hbest =>
    split at h
    · next o1 hfind =>
      obtain ⟨rfl, rfl⟩ := Prod.mk.inj h
      obtain ⟨hrun, hmem, hearlier⟩ := Ref.find?_offsets hfind
      have hle := hle63 o1 hmem
      refine ⟨hmem, by omega, by omega, fun o' h3 ho' => ?_⟩
      have hmem' : o' ∈ Ref.offsets p := by
        rw [Ref.mem_offsets] at hmem ⊢
        omega
      exact ⟨hle63 o' hmem', hrun ▸ lt_of_le_of_ne (Ref.run_le_bestRun hmem') (hearlier o' h3 ho')⟩
    · exact absurd h.symm hne

/-- What a search that answers a match has found. -/
theorem Enc.isMatch_of_mfSearch {e r : Enc} {o l : Nat} (hp : e.p < e.len) (hsearch : e.mfSearch cap = .ok r)
    (hresult : r.mf.result = (o, l)) (hne : (o, l) ≠ (0, 0)) : Ref.IsMatch e.input cap e.p o l := by
  obtain ⟨m, hm, -, -, hmresult⟩ := e.mfSearch_spec cap hp
  obtain rfl := Except.ok.inj (hm.symm.trans hsearch)
  exact Ref.isMatch_of_bestMatch ((searchResult_eq_bestMatch ..).symm.trans (hmresult.symm.trans hresult)) hne

/-- Settles O44: the length is at most the run, and the run is bounded and counts equal bytes. -/
theorem returnedMatchIsInBounds : Obligations.ReturnedMatchIsInBounds := by
  intro e r cap o l _ hp hsearch hresult hne
  have hmatch := Enc.isMatch_of_mfSearch hp hsearch hresult hne
  obtain ⟨h3, hmax⟩ := Ref.mem_offsets.1 hmatch.mem
  have hl := hmatch.length
  have h3l := hmatch.minLength
  have hrun := Ref.run_le e.input cap e.p o
  rw [e.length_input] at hrun
  exact ⟨h3, hmax, h3l, by omega, by omega, by omega, fun k hk =>
    Ref.getElem?_of_lt_run (cap := cap) (by omega) (by omega)⟩

/-- Settles O45: a smaller offset has a shorter run that does not reach 64, and the length is the run or 63. -/
theorem smallestOffsetWinsTies : Obligations.SmallestOffsetWinsTies := by
  intro e r cap o l _ hp hsearch hresult hne o' h3 ho'
  have hmatch := Enc.isMatch_of_mfSearch hp hsearch hresult hne
  have hl := hmatch.length
  obtain ⟨h63, hlt⟩ := hmatch.earlier o' h3 ho'
  omega

/-! ### What a search depends on (R80, R82) -/

/-- Settles O41: the limit is below the smallest offset, and no length is found. -/
theorem firstThreePositionsHaveNoMatch : Obligations.FirstThreePositionsHaveNoMatch := fun e _ hp =>
  ⟨if_pos (show min e.p 1023 < 3 by omega), rfl⟩

/-- With no byte left nothing is compared (R84). -/
theorem Enc.mfTry_noneLeft {e : Enc} (hr : e.mf.remain = 0) :
    e.mfTry cap = .ok { e with mf := { e.mf with maxchk := 0, k := 0 } } := by
  simp [Enc.mfTry, hr, Enc.mfCompare]

theorem Enc.mfUpdate_of_le {e : Enc} (h : e.mf.k ≤ e.mf.bestl) : e.mfUpdate = e := if_neg (not_lt.2 h)

theorem Enc.mfScan_noneLeft {e : Enc} {n : Nat} (hr : e.mf.remain = 0) (hb : e.mf.bestl = 0) :
    ∃ m, e.mfScan cap n = .ok { e with mf := m } ∧ m.result = (0, 0) := by
  have hresult {m : Mf} (hm : m.bestl = 0) : m.result = (0, 0) := by simp [Mf.result, hm]
  induction n generalizing e with
  | zero => exact ⟨e.mf, rfl, hresult hb⟩
  | succ n ih =>
    rw [Enc.mfScan, Enc.mfTry_noneLeft hr]
    dsimp only
    rw [if_neg (Nat.not_lt_zero _), Enc.mfUpdate_of_le (Nat.zero_le _)]
    split
    · exact ih (e := Enc.mfNext { e with mf := { e.mf with maxchk := 0, k := 0 } }) hr hb
    · exact ⟨_, rfl, hresult hb⟩

theorem Enc.mfSearch_noneLeft {e : Enc} (cap : Nat) (h : e.len ≤ e.p) :
    ∃ m, e.mfSearch cap = .ok { e with mf := m } ∧ m.result = (0, 0) := by
  rw [Enc.mfSearch]
  split
  · exact ⟨_, rfl, rfl⟩
  · exact Enc.mfScan_noneLeft (e := e.mfInit) (Nat.sub_eq_zero_of_le h) rfl

/-- Wherever the cursor is, a search answers, writes the MatchFinder's registers alone, and takes its result from the input
and the position (R80). -/
theorem Enc.mfSearch_frame (cap : Nat) (e : Enc) :
    ∃ m, e.mfSearch cap = .ok { e with mf := m } ∧
      m.result = if e.p < e.len then Ref.bestMatch e.input cap e.p else (0, 0) := by
  by_cases hp : e.p < e.len
  · obtain ⟨m, hsearch, -, -, hresult⟩ := e.mfSearch_spec cap hp
    exact ⟨m, hsearch, by rw [if_pos hp, hresult, searchResult_eq_bestMatch]⟩
  · rw [if_neg hp]
    exact Enc.mfSearch_noneLeft cap (not_lt.1 hp)

/-- Settles O42: both searches answer what the input and the position say. -/
theorem searchHasNoSideEffects : Obligations.SearchHasNoSideEffects := by
  intro e e' cap r hin hlen hp hsearch
  obtain ⟨m, hm, hresult⟩ := e.mfSearch_frame cap
  obtain ⟨m', hm', hresult'⟩ := e'.mfSearch_frame cap
  obtain rfl := Except.ok.inj (hm.symm.trans hsearch)
  have hinput : e'.input = e.input := by rw [Enc.input, Enc.input, hin, hlen]
  refine ⟨rfl, _, hm', ?_⟩
  rw [hresult, hresult', hinput, hlen, hp]

end Sys2Proof.Machine

/-! ## What the TokenPacker's operations write (41_token_packer.md R100 to R106) -/

namespace Sys2Proof

/-- Byte1 of a token as arithmetic (30_encoding.md R64). -/
theorem packByte1_eq_ofNat {o l : Nat} (ho : o ≤ 1023) (hl : l ≤ 63) :
    packByte1 o l = BitVec.ofNat 8 (l * 4 + o / 256) := by
  apply BitVec.eq_of_toNat_eq
  rw [packByte1_toNat (by omega) (by omega), BitVec.toNat_ofNat]
  omega

/-- Byte2 of a token as arithmetic (30_encoding.md R64). -/
theorem packByte2_eq_ofNat (o : Nat) : packByte2 o = BitVec.ofNat 8 (o % 256) := by
  apply BitVec.eq_of_toNat_eq
  rw [packByte2_toNat, BitVec.toNat_ofNat, Nat.mod_mod]

end Sys2Proof

namespace Sys2Proof.Machine

/-! ### A step of a running ENC (R100) -/

/-- In a run without a START pending, a step of the machine is ENC's main loop. -/
theorem State.Inv.step_eq_next_of_runStep {s : State} {e : Enc} (h : s.Inv) (hs : s.start = false)
    (hst : s.enc.state = .run) (hok : s.enc.runStep Config.lookaheadCap s.padMode = .ok e) :
    step s = .next { s with enc := e } := by
  have hop : s.op = .compress := h.encOp (by simp [Enc.running, hst])
  have hstep : s.enc.step Config.lookaheadCap s.padMode = .ok e := by rw [Enc.step, hst, hok]
  exact (step_compress_eq_next hop).2 (.inr ⟨hs, e, hstep, rfl⟩)

/-- Settles O49: the main loop goes on to the tail, or its one item is the `put` of the packer for the search's closed form. -/
theorem encStepPutsOneItem : Obligations.EncStepPutsOneItem := by
  intro s h hs hst
  refine ⟨fun hp => h.step_eq_next_of_runStep hs hst (if_pos hp), fun hp => ?_⟩
  have hrun : s.enc.Run := h.enc.run (by simp [Enc.running, hst])
  have hn : s.enc.tp.nitems ≤ 7 := hrun.nitems (by simp [hst])
  obtain ⟨m, p, t, out, total, hok, -, -, hpos, -, -, -, -, htotal, hpacker⟩ :=
    Enc.runStep_item (cap := Config.lookaheadCap) (mode := s.padMode) hrun.group hn hp hrun.total
  rw [searchResult_eq_bestMatch] at hpos hpacker
  rw [s.enc.input_getD hp] at hpacker
  exact ⟨_, h.step_eq_next_of_runStep hs hst hok, hpacker, hpos, hst, htotal, rfl⟩

/-! ### The operations on the open group -/

variable {e : Enc}

/-- `TP.PUT_LIT` (R101). -/
theorem Enc.putLit_eq (hp : e.p < e.len) (hn : e.tp.nbytes < 16) :
    e.putLit = .ok { e with
      p := e.p + 1
      tp := { e.tp with
        items := Memory.write Space.items.unlisted e.tp.items e.tp.nbytes (Memory.read Space.inp.unlisted e.inMem e.p)
        nbytes := e.tp.nbytes + 1, nitems := e.tp.nitems + 1 } } := by
  rw [Enc.putLit, e.readIn_eq hp]
  dsimp only
  rw [e.writeItem_eq _ hn]

/-- Settles O46: the byte that is read is the one that is written. -/
theorem putLiteralAppendsTheByte : Obligations.PutLiteralAppendsTheByte := fun _ hp hn => Enc.putLit_eq hp hn

/-- Marking item `n` sets bit `7 - n` and no other (R102, 20_memory.md R46). -/
theorem getLsbD_flagsMark {i n : Nat} (flags : Byte) (hi : i < 8) (hn : n ≤ 7) :
    (flagsMark flags n).getLsbD i = (flags.getLsbD i || decide (i = 7 - n)) := by
  obtain ⟨j, hj, rfl⟩ : ∃ j, j < 8 ∧ i = 7 - j := ⟨7 - i, by omega, by omega⟩
  have hbit : 7 - j = 7 - n ↔ j = n := by omega
  rw [flagsMark, BitVec.getLsbD_or, getLsbD_markBit hj n, decide_eq_decide.2 hbit]

/-- Settles O47: the token's bytes are arithmetic on its fields, and the mark is the item's own flag bit. -/
theorem putMatchAppendsTheToken : Obligations.PutMatchAppendsTheToken := by
  intro e o l ho hl hitems hbytes
  refine ⟨_, by rw [Enc.putMatch, e.putToken_eq o l hbytes], rfl, rfl, rfl, ?_, ?_, rfl⟩
  · rw [← packByte1_eq_ofNat ho hl, ← packByte2_eq_ofNat o]
  · exact fun i hi => getLsbD_flagsMark e.tp.flags hi hitems

/-! ### The flushes -/

/-- Settles O48: it is what `Enc.flush_eq` says, with `Enc.flushed` written out. -/
theorem flushEmitsFlagByteThenItems : Obligations.FlushEmitsFlagByteThenItems := fun _ h => Enc.flush_eq h

/-- `TP.FINAL_FLUSH` (R105): a group with items is flushed, an empty one is not. -/
theorem Enc.finalFlush_eq (mode : PadMode) (h : e.tp.nbytes ≤ 16) :
    e.finalFlush mode = .ok ((if 0 < e.tp.nitems then e.flushed else e).afterFlush mode) := by
  rw [Enc.finalFlush, Enc.flush_eq h, ← apply_ite Except.ok]

/-- Settles O50: only `Enc.flushed` writes the group and the output, and what follows writes no more than the state and
`CSIZE`. -/
theorem finalFlushEmitsNoLoneFlagByte : Obligations.FinalFlushEmitsNoLoneFlagByte := by
  intro e mode h
  refine ⟨_, Enc.finalFlush_eq mode h, ?_⟩
  rw [Enc.afterFlush_eq]
  by_cases hn : 0 < e.tp.nitems
  · rw [if_pos hn]
    exact ⟨fun h0 => absurd h0 hn.ne', fun _ => ⟨rfl, rfl, rfl⟩, by cases mode <;> rfl, rfl⟩
  · rw [if_neg hn]
    exact ⟨fun _ => ⟨rfl, rfl, rfl⟩, fun h0 => absurd h0 hn, by cases mode <;> rfl, rfl⟩

end Sys2Proof.Machine

/-! ## The padding controller (42_padding_controller.md R116 to R126) -/

namespace Sys2Proof.Machine

/-! ### No-op fill (R118, R119) -/

/-- `t'` is the group `t` with `k` no-op tokens behind its items: each is two zero bytes under a flag bit 1. -/
structure Tp.AddsNops (t t' : Tp) (k : Nat) : Prop where
  nitems : t'.nitems = t.nitems + k
  nbytes : t'.nbytes = t.nbytes + 2 * k
  bytes : Memory.bytes Space.items.unlisted t'.items 0 t'.nbytes =
    Memory.bytes Space.items.unlisted t.items 0 t.nbytes ++ List.replicate (2 * k) 0x00#8
  flags : ∀ i, i < 8 → t'.flags.getLsbD (7 - i) =
    (t.flags.getLsbD (7 - i) || decide (t.nitems ≤ i ∧ i < t.nitems + k))

theorem Tp.AddsNops.zero (t : Tp) : t.AddsNops t 0 where
  nitems := rfl
  nbytes := rfl
  bytes := by simp
  flags := fun i _ => by simp [show ¬ (t.nitems ≤ i ∧ i < t.nitems) by omega]

theorem Tp.AddsNops.trans {t t1 t2 : Tp} {j k : Nat} (h1 : t.AddsNops t1 j) (h2 : t1.AddsNops t2 k) :
    t.AddsNops t2 (j + k) where
  nitems := by rw [h2.nitems, h1.nitems, Nat.add_assoc]
  nbytes := by rw [h2.nbytes, h1.nbytes]; omega
  bytes := by rw [h2.bytes, h1.bytes, List.append_assoc, ← List.replicate_add, ← Nat.mul_add]
  flags := fun i hi => by
    have hsplit : (t.nitems ≤ i ∧ i < t.nitems + j) ∨ (t.nitems + j ≤ i ∧ i < t.nitems + j + k) ↔
        t.nitems ≤ i ∧ i < t.nitems + (j + k) := by omega
    rw [h2.flags i hi, h1.flags i hi, h1.nitems, Bool.or_assoc, ← Bool.decide_or, decide_eq_decide.2 hsplit]

variable {e : Enc}

/-- One round of the fill: both bytes of `putToken 0 0` are zero. -/
theorem Enc.putToken_nop (hwf : Memory.wf Space.items.unlisted Config.itemsSize e.tp.items) (hb : e.tp.nbytes < 15) :
    ∃ t, e.putToken 0 0 = .ok { e with tp := t } ∧ Memory.wf Space.items.unlisted Config.itemsSize t.items ∧
      e.tp.AddsNops t 1 := by
  have hwf1 := Memory.write_wf (v := packByte1 0 0) hwf (show e.tp.nbytes < 16 by omega)
  refine ⟨_, e.putToken_eq 0 0 hb, Memory.write_wf hwf1 (by simp; omega), rfl, rfl, ?_, fun i hi => ?_⟩ <;> dsimp only
  · rw [Memory.bytes_write_succ hwf1, Memory.bytes_write_succ hwf, List.append_assoc, packByte1_zero, packByte2_zero]
    rfl
  · have hitem : i = e.tp.nitems ↔ e.tp.nitems ≤ i ∧ i < e.tp.nitems + 1 := by omega
    rw [flagsMark, BitVec.getLsbD_or, getLsbD_markBit hi, decide_eq_decide.2 hitem]

/-- The loop stops at the first count of no-ops that fills the group or aligns the total; its bound lets it get there. -/
theorem Enc.nopFillLoop_least {n : Nat} (hwf : Memory.wf Space.items.unlisted Config.itemsSize e.tp.items)
    (hn : e.tp.nitems ≤ 8) (hb : e.tp.nbytes ≤ 2 * e.tp.nitems) (hbound : 8 ≤ e.tp.nitems + n) :
    ∃ t k, e.nopFillLoop n = .ok { e with tp := t } ∧ e.tp.AddsNops t k ∧
      (t.nitems = 8 ∨ (e.total + 1 + t.nbytes) % 16 = 0) ∧
      ∀ j, j < k → e.tp.nitems + j < 8 ∧ (e.total + 1 + e.tp.nbytes + 2 * j) % 16 ≠ 0 := by
  induction n generalizing e with
  | zero => exact ⟨e.tp, 0, rfl, .zero _, .inl (by omega), nofun⟩
  | succ n ih =>
    rw [Enc.nopFillLoop, Config.group_eq, Config.align_eq]
    by_cases hgo : e.tp.nitems < 8 ∧ (e.total + 1 + e.tp.nbytes) % 16 ≠ 0
    · obtain ⟨t1, hput, hwf1, hone⟩ := Enc.putToken_nop hwf (by omega)
      have hitems := hone.nitems
      have hbytes := hone.nbytes
      obtain ⟨t, k, hloop, hmore, hstop, hleast⟩ :=
        ih (e := { e with tp := t1 }) hwf1 (by dsimp; omega) (by dsimp; omega) (by dsimp; omega)
      refine ⟨t, 1 + k, by rw [if_pos hgo, hput]; exact hloop, hone.trans hmore, hstop, fun j hj => ?_⟩
      cases j with
      | zero => exact hgo
      | succ j =>
        obtain ⟨h8, h16⟩ := hleast j (by omega)
        dsimp only at h8 h16
        exact ⟨by omega, by omega⟩
    · exact ⟨e.tp, 0, if_neg hgo, .zero _, by omega, nofun⟩

/-- Settles O51: an empty group is skipped (R119); else the loop's 8 rounds are enough to fill the group. -/
theorem nopFillStopsAtFullOrAligned : Obligations.NopFillStopsAtFullOrAligned := by
  intro e hwf hn hb
  rcases Nat.eq_zero_or_pos e.tp.nitems with h0 | hpos
  · have hfill : e.nopFill = .ok { e with state := .finalFlush } := by simp [Enc.nopFill, h0]
    obtain ⟨hitems, hbytes, hmem, hflags⟩ := Tp.AddsNops.zero e.tp
    exact ⟨0, _, hfill, rfl, hitems, hbytes, fun _ => rfl, fun h => absurd h0 h.ne', nofun, hmem, hflags, rfl⟩
  · obtain ⟨t, k, hloop, ⟨hitems, hbytes, hmem, hflags⟩, hstop, hleast⟩ :=
      Enc.nopFillLoop_least (n := Config.group) hwf hn hb (Nat.le_add_left _ _)
    have hfill : e.nopFill = .ok { e with tp := t, state := .finalFlush } := by
      rw [Enc.nopFill, if_pos hpos, hloop]
    exact ⟨k, _, hfill, rfl, hitems, hbytes, fun h0 => absurd h0 hpos.ne', fun _ => hstop, hleast, hmem, hflags, rfl⟩

/-! ### The paddings after the final flush (R116, R121) -/

theorem Enc.zeroPad_eq (e : Enc) :
    e.zeroPad = { e with
      out := e.out ++ List.replicate (Ref.zeroPadCount e.total) 0x00#8
      total := e.total + Ref.zeroPadCount e.total, csize := e.total + Ref.zeroPadCount e.total, state := .done } := by
  have hbound : Ref.zeroPadCount e.total ≤ Config.align := (Nat.mod_lt _ (by decide)).le
  rw [Enc.zeroPad, Enc.zeroPadLoop_eq hbound]
  rfl

theorem Ref.add_zeroPadCount_mod (u : Nat) : (u + Ref.zeroPadCount u) % 16 = 0 := by
  unfold Ref.zeroPadCount
  omega

/-- Settles O52: the count is `Ref.zeroPadCount` written out. -/
theorem zeroPadReachesTheBoundary : Obligations.ZeroPadReachesTheBoundary := by
  intro e
  rw [e.zeroPad_eq]
  exact ⟨rfl, rfl, Ref.add_zeroPadCount_mod e.total, rfl⟩

/-- The number of filler bytes that `PAD_TABLE` has for a stream of `u` bytes (R121). -/
def templatePadCount (u : Nat) : Nat := Config.padTable.getD (16 - u % 16) 0

theorem Enc.templatePad_eq (e : Enc) :
    e.templatePad = { e with
      out := e.out ++ Ref.templateBytes (templatePadCount e.total)
      total := e.total + templatePadCount e.total, csize := e.total + templatePadCount e.total, state := .done
      pc := { short := 16 - e.total % 16, padcnt := 0, tidx := templatePadCount e.total % 17 } } := by
  rw [Enc.templatePad, Enc.templateLoop_eq (by simp)]
  simp [Enc.stop, templatePadCount, Ref.templateBytes]

/-- Settles O53: the table is `Config.padTable` written out. -/
theorem templatePadAppendsTheTableCount : Obligations.TemplatePadAppendsTheTableCount := by
  intro e
  rw [e.templatePad_eq]
  exact ⟨rfl, rfl, rfl, rfl, rfl, rfl⟩

/-- Each of the table's entries brings the total to a boundary (R123). -/
theorem add_templatePadCount_mod (u : Nat) : (u + templatePadCount u) % 16 = 0 := by
  have htable : ∀ r, r < 16 → (r + Config.padTable.getD (16 - r) 0) % 16 = 0 := by decide
  rw [templatePadCount, ← Nat.mod_add_mod]
  exact htable _ (Nat.mod_lt _ (by decide))

/-! ### `Done` and the size report (R124 to R126) -/

/-- Settles O54: either padding adds what its total lacks, and the total is the length of `OUT`. -/
theorem paddedOutputIsAligned : Obligations.PaddedOutputIsAligned := by
  intro s h hs hst
  have hop : s.op = .compress := h.encOp (by rcases hst with hst | hst <;> simp [Enc.running, hst])
  have hpad : ∃ e, s.enc.step Config.lookaheadCap s.padMode = .ok e ∧ e.state = .done ∧ e.total % 16 = 0 := by
    rcases hst with hst | hst
    · refine ⟨s.enc.zeroPad, by rw [Enc.step, hst], ?_⟩
      rw [s.enc.zeroPad_eq]
      exact ⟨rfl, Ref.add_zeroPadCount_mod _⟩
    · refine ⟨s.enc.templatePad, by rw [Enc.step, hst], ?_⟩
      rw [s.enc.templatePad_eq]
      exact ⟨rfl, add_templatePadCount_mod _⟩
  obtain ⟨e, he, hdone, haligned⟩ := hpad
  have hinv : e.Inv := h.enc.step he
  exact ⟨{ s with enc := e }, (step_compress_eq_next hop).2 (.inr ⟨hs, e, he, rfl⟩), hdone, hinv.total ▸ haligned,
    (hinv.csize hdone).trans hinv.total⟩

/-- Settles O55: both equalities are clauses of the invariant, which the step keeps. -/
theorem sizeReportCountsEveryByte : Obligations.SizeReportCountsEveryByte := by
  intro s t h _ hstep hdone
  have ht : t.Inv := stepKeepsTheInvariant s t h hstep
  have hcsize := ht.enc.csize hdone
  exact ⟨hcsize, hcsize.trans ht.enc.total⟩

theorem Enc.running_eq_false {e : Enc} : e.running = false ↔ e.state = .idle ∨ e.state = .done := by
  simp only [Enc.running, Bool.and_eq_false_iff, bne_eq_false_iff_eq]

theorem Dec.running_eq_false {d : Dec} : d.running = false ↔ d.state = .idle ∨ d.state = .done := by
  simp only [Dec.running, Bool.and_eq_false_iff, bne_eq_false_iff_eq]

/-- An ENC that is not running stays as it is (R126, 70_reset_and_hazards.md R220). -/
theorem Enc.step_of_not_running (cap : Nat) (mode : PadMode) (h : e.running = false) : e.step cap mode = .ok e := by
  rcases Enc.running_eq_false.1 h with hst | hst <;> rw [Enc.step, hst]

/-- A DEC that is not running stays as it is (43_token_parser.md R142, 70_reset_and_hazards.md R220). -/
theorem Dec.itemStep_of_not_running (lim : Option Nat) {d : Dec} (h : d.running = false) : d.itemStep lim = .ok d := by
  rcases Dec.running_eq_false.1 h with hst | hst <;> rw [Dec.itemStep, Dec.fetch, hst]

/-- Settles O30: the step of an engine that is not running answers that engine. -/
theorem doneStaysUntilTheNextStart : Obligations.DoneStaysUntilTheNextStart := fun _ hs =>
  ⟨fun hop hr => (step_compress_eq_next hop).2 (.inr ⟨hs, _, Enc.step_of_not_running _ _ hr, rfl⟩),
    fun hop hr => (step_decompress_eq_next hop).2 (.inr ⟨hs, _, Dec.itemStep_of_not_running _ hr, rfl⟩)⟩

end Sys2Proof.Machine

/-! ## What a row of a copy can do (44_window_reconstructor.md R159, R160) -/

namespace Sys2Proof.Machine

variable {lim : Option Nat} {d r : Dec}

/-- All that `WR.COPY_BYTE` can do, in any state (R159). -/
theorem Dec.copyByte_eq_ok (h : d.copyByte = .ok r) :
    ∃ b win srcp dstp, r = { d with
      stg := b, out := d.out ++ [b], ocnt := d.ocnt + 1, win := win, srcp := srcp, dstp := dstp, rem := d.rem - 1 } := by
  unfold Dec.copyByte at h
  split at h
  · cases h
  split at h
  · cases h
  next hw =>
    obtain ⟨-, rfl⟩ := Dec.writeWin_eq_ok hw
    cases h
    exact ⟨_, _, _, _, rfl⟩

/-- All that a row of `Copy` can do, in any state (R145). -/
theorem Dec.copyStep_eq_ok (h : d.copyStep lim = .ok r) :
    d.rem ≠ 0 ∧ ∃ d1, d.copyByte = .ok d1 ∧ r = Dec.limitTest lim (if d.rem = 1 then d1.copyEnd else d1) := by
  unfold Dec.copyStep at h
  split at h
  · cases h
  next hrem =>
    split at h
    · cases h
    next d1 hbyte => cases h; exact ⟨hrem, d1, hbyte, rfl⟩

/-- A row of `Copy` that does not leave `Copy` has used up one byte of several. -/
theorem Dec.copyStep_rem (h : d.copyStep lim = .ok r) (hr : r.state = .copy) : r.rem + 1 = d.rem ∧ r.rem ≠ 0 := by
  obtain ⟨hrem, d1, hbyte, rfl⟩ := Dec.copyStep_eq_ok h
  have hlim := Dec.limitTest_eq_of_copy hr
  rw [hlim] at hr ⊢
  split at hr
  · cases hr
  next hlast =>
    obtain ⟨b, win, srcp, dstp, rfl⟩ := Dec.copyByte_eq_ok hbyte
    rw [if_neg hlast]
    dsimp only
    omega

/-- A copy that a row leaves in `Copy` goes on. -/
theorem Dec.copyRun_of_copy (h : d.copyStep lim = .ok r) (hr : r.state = .copy) (n : Nat) :
    Dec.copyRun lim (n + 1) d = Dec.copyRun lim n r := by
  rw [Dec.copyRun, h]
  exact if_pos hr

/-- A copy that a row takes out of `Copy` is over. -/
theorem Dec.copyRun_of_left (h : d.copyStep lim = .ok r) (hr : r.state ≠ .copy) (n : Nat) :
    Dec.copyRun lim (n + 1) d = .ok r := by
  rw [Dec.copyRun, h]
  exact if_neg hr

theorem Dec.copyRun_of_error {f : Fault} (h : d.copyStep lim = .error f) (n : Nat) :
    Dec.copyRun lim (n + 1) d = .error f := by
  rw [Dec.copyRun, h]

end Sys2Proof.Machine

/-! ## A step as rows of the transition table (43_token_parser.md R145, log 7) -/

namespace Sys2Proof.Machine

variable {lim : Option Nat} {n : Nat} {d : Dec}

/-- `r` is what one row of the transition table after another, at most `N` of them, answers from `d`. -/
def Dec.RowsAnswer (lim : Option Nat) (N : Nat) (d : Dec) (r : Except Fault Dec) : Prop :=
  ∃ n, 1 ≤ n ∧ n ≤ N ∧ r = Dec.microRun lim n d

theorem Dec.microRun_one (lim : Option Nat) (d : Dec) : Dec.microRun lim 1 d = d.micro lim := by
  rw [Dec.microRun]
  cases d.micro lim <;> rfl

theorem Dec.microRun_succ_of_ok {d1 : Dec} (h : d.micro lim = .ok d1) (n : Nat) :
    Dec.microRun lim (n + 1) d = Dec.microRun lim n d1 := by
  rw [Dec.microRun, h]

variable {N : Nat} {x : Except Fault Dec}

theorem Dec.RowsAnswer.one (h : d.micro lim = x) : d.RowsAnswer lim (N + 1) x :=
  ⟨1, le_rfl, Nat.le_add_left 1 N, by rw [Dec.microRun_one, h]⟩

theorem Dec.RowsAnswer.cons {d1 : Dec} (h : d.micro lim = .ok d1) (hx : d1.RowsAnswer lim N x) :
    d.RowsAnswer lim (N + 1) x := by
  obtain ⟨n, -, hn, rfl⟩ := hx
  exact ⟨n + 1, Nat.le_add_left 1 n, Nat.succ_le_succ hn, (Dec.microRun_succ_of_ok h n).symm⟩

theorem Dec.RowsAnswer.mono {M : Nat} (hx : d.RowsAnswer lim M x) (hMN : M ≤ N) : d.RowsAnswer lim N x := by
  obtain ⟨n, h1, hn, rfl⟩ := hx
  exact ⟨n, h1, hn.trans hMN, rfl⟩

/-- A copy is the row of its next byte and, where that stays in `Copy`, the rows of the rest. -/
theorem Dec.copyRun_succ_rows (hs : d.state = .copy)
    (hrest : ∀ d1, d.copyStep lim = .ok d1 → d1.state = .copy → d1.RowsAnswer lim N (Dec.copyRun lim n d1)) :
    d.RowsAnswer lim (N + 1) (Dec.copyRun lim (n + 1) d) := by
  have hmicro : d.micro lim = d.copyStep lim := by rw [Dec.micro, hs]
  cases hstep : d.copyStep lim with
  | error f =>
    rw [Dec.copyRun_of_error hstep]
    exact .one (hmicro.trans hstep)
  | ok d1 =>
    by_cases hc : d1.state = .copy
    · rw [Dec.copyRun_of_copy hstep hc]
      exact .cons (hmicro.trans hstep) (hrest d1 hstep hc)
    · rw [Dec.copyRun_of_left hstep hc]
      exact .one (hmicro.trans hstep)

/-- A copy with bytes left is at most a row for each. -/
theorem Dec.copyRun_rows (hs : d.state = .copy) (hrem : d.rem = n + 1) :
    d.RowsAnswer lim (n + 1) (Dec.copyRun lim (n + 1) d) := by
  induction n generalizing d with
  | zero =>
    refine Dec.copyRun_succ_rows hs fun d1 hstep hc => ?_
    have hrem1 := Dec.copyStep_rem hstep hc
    omega
  | succ n ih =>
    refine Dec.copyRun_succ_rows hs fun d1 hstep hc => ih hc ?_
    have hrem1 := Dec.copyStep_rem hstep hc
    omega

/-- A copy found in progress; with no byte left its one row faults (log 12). -/
theorem Dec.copying_rows (hs : d.state = .copy) : d.RowsAnswer lim (d.rem + 1) (Dec.copyRun lim d.rem d) := by
  cases hrem : d.rem with
  | zero => exact .one (by simp [Dec.micro, hs, Dec.copyStep, hrem, Dec.copyRun])
  | succ n => exact (Dec.copyRun_rows hs hrem).mono (Nat.le_succ _)

/-- A fetch's row, where each byte that may come leads to at most `N` rows. -/
theorem Dec.readNext_rows {K : Byte → Dec → Fetched} (hend : d.srcNext = none → d.micro lim = .ok d.stop)
    (hnext : ∀ b, d.srcNext = some (b, { d with ipos := d.ipos + 1 }) →
      d.RowsAnswer lim (N + 1) ((K b { d with ipos := d.ipos + 1 }).perform lim)) :
    d.RowsAnswer lim (N + 1) ((d.readNext K).perform lim) := by
  rw [Dec.readNext]
  obtain ⟨hn, -⟩ | ⟨b, hn, -⟩ := d.srcNext_cases <;> rw [hn]
  · exact .one (hend hn)
  · exact hnext b hn

theorem Dec.fetchHeader_rows (hs : d.state = .readFlagByte) : d.RowsAnswer lim 1 (d.fetchHeader.perform lim) := by
  rw [Dec.fetchHeader_eq_readNext]
  refine Dec.readNext_rows (fun hn => ?_) fun f hn => .one ?_
  · simp [Dec.micro, hs, hn]
  · simp [Dec.micro, hs, hn, Fetched.perform, Dec.execItem]

theorem Dec.fetchLiteral_rows (hs : d.state = .readLiteral) : d.RowsAnswer lim 1 (d.fetchLiteral.perform lim) := by
  rw [Dec.fetchLiteral_eq_readNext]
  refine Dec.readNext_rows (fun hn => ?_) fun b hn => .one ?_
  · simp [Dec.micro, hs, hn]
  · simp [Dec.micro, hs, hn, Fetched.perform, Dec.execItem]

/-- Token dispatch (R141) on the latched length: a no-op is done, a copy begins. -/
theorem Dec.tokenDispatch_latch (off : BitVec 10) (len : BitVec 6) (d : Dec) :
    (d.latch off len).tokenDispatch = if len = 0 then (d.latch off len).wrNop else (d.latch off len).copyStart := rfl

/-- A copy's rows after the one that starts it. -/
theorem Dec.copyItem_rows (off : BitVec 10) {len : BitVec 6} (hlen : len ≠ 0) :
    (d.latch off len).copyStart.RowsAnswer lim 63 (d.copyItem lim off len) := by
  obtain ⟨n, hn⟩ : ∃ n, len.toNat = n + 1 :=
    Nat.exists_eq_succ_of_ne_zero fun h0 => hlen (BitVec.eq_of_toNat_eq h0)
  rw [Dec.copyItem, hn]
  exact (Dec.copyRun_rows rfl hn).mono (hn ▸ Nat.le_of_lt_succ len.isLt)

/-- The row that completes a token, and the rows of its copy. -/
theorem Dec.execToken_rows {b1 b2 : Byte} {d1 : Dec}
    (hmicro : d.micro lim = .ok (d1.latch (unpackOffset b1 b2) (unpackLength b1)).tokenDispatch) :
    d.RowsAnswer lim 64 (d1.execItem lim (decodeToken b1 b2)) := by
  rw [Dec.tokenDispatch_latch] at hmicro
  obtain ⟨hl, hi⟩ | ⟨hl, ho, hi⟩ | ⟨hl, -, hi⟩ := decodeToken_cases b1 b2 <;> rw [hi]
  · rw [hl] at hmicro
    exact .one hmicro
  · rw [if_neg hl, ho] at hmicro
    exact .cons hmicro (Dec.copyItem_rows _ hl)
  · rw [if_neg hl] at hmicro
    exact .cons hmicro (Dec.copyItem_rows _ hl)

theorem Dec.fetchToken2_rows (hs : d.state = .readToken2) : d.RowsAnswer lim 64 (d.fetchToken2.perform lim) := by
  rw [Dec.fetchToken2_eq_readNext]
  refine Dec.readNext_rows (fun hn => ?_) fun b hn => Dec.execToken_rows ?_
  · simp [Dec.micro, hs, hn]
  · simp [Dec.micro, hs, hn]

theorem Dec.fetchToken1_rows (hs : d.state = .readToken1) : d.RowsAnswer lim 65 (d.fetchToken1.perform lim) := by
  rw [Dec.fetchToken1_eq_readNext]
  refine Dec.readNext_rows (fun hn => ?_) fun b hn => .cons ?_ (Dec.fetchToken2_rows rfl)
  · simp [Dec.micro, hs, hn]
  · simp [Dec.micro, hs, hn]

/-- `TPR.SHIFT` where no flag bit is left (R138). -/
theorem Dec.shift_of_fcnt_eq_zero (h : d.fcnt = 0) : d.shift = { d with state := .readFlagByte } := if_pos h

/-- `TPR.SHIFT` where one is (R138). -/
theorem Dec.shift_of_fcnt_ne_zero (h : d.fcnt ≠ 0) :
    d.shift = { d with
      flg := flgShift d.flg, fcnt := d.fcnt - 1, state := if flgBit d.flg then .readToken1 else .readLiteral } :=
  if_neg h

theorem Dec.shift_state (h : d.fcnt ≠ 0) : d.shift.state = if flgBit d.flg then .readToken1 else .readLiteral := by
  rw [Dec.shift_of_fcnt_ne_zero h]

theorem Dec.micro_of_dispatch (lim : Option Nat) (hs : d.state = .dispatch) : d.micro lim = .ok d.shift := by
  rw [Dec.micro, hs]

theorem Dec.fetchItem_rows (hs : d.state = .dispatch) : d.RowsAnswer lim 66 (d.fetchItem.perform lim) := by
  have hmicro := Dec.micro_of_dispatch lim hs
  rw [Dec.fetchItem]
  split
  · exact .one hmicro
  next h0 =>
    have hstate := Dec.shift_state h0
    split
    · next hbit =>
      rw [if_pos hbit] at hstate
      exact .cons hmicro (Dec.fetchToken1_rows hstate)
    · next hbit =>
      rw [if_neg hbit] at hstate
      exact .mono (.cons hmicro (Dec.fetchLiteral_rows hstate)) (by omega)

/-- Every step of DEC, whatever state it is in. -/
theorem Dec.itemStep_rows (lim : Option Nat) (d : Dec) : d.RowsAnswer lim (d.rem + 66) (d.itemStep lim) := by
  rw [Dec.itemStep_eq_perform, Dec.fetch]
  cases hs : d.state
  case idle | done => exact .one (by rw [Dec.micro, hs]; rfl)
  case readFlagByte => exact (Dec.fetchHeader_rows hs).mono (by omega)
  case dispatch => exact (Dec.fetchItem_rows hs).mono (by omega)
  case readLiteral => exact (Dec.fetchLiteral_rows hs).mono (by omega)
  case readToken1 => exact (Dec.fetchToken1_rows hs).mono (by omega)
  case readToken2 => exact (Dec.fetchToken2_rows hs).mono (by omega)
  case copy => exact (Dec.copying_rows hs).mono (by omega)

theorem step_eq_liftDec {s : State} (hs : s.start = false) (hop : s.op = .decompress) :
    step s = s.liftDec (s.dec.itemStep s.outLimit) := by
  simp [step, hs, hop, decStep_eq_liftDec]

/-- Settles O13: each state's fetch is a row or two after the shift, and a copy is a row for each of its bytes. -/
theorem stepIsRowsOfTheTransitionTable : Obligations.StepIsRowsOfTheTransitionTable := by
  intro s hs hop
  obtain ⟨n, h1, hn, hrows⟩ := s.dec.itemStep_rows s.outLimit
  exact ⟨n, h1, hn, by rw [step_eq_liftDec hs hop, hrows]⟩

end Sys2Proof.Machine

/-! ## A step on what the decoder reads at `IPOS` (43_token_parser.md R137 to R140, 30_encoding.md R68) -/

namespace Sys2Proof.Machine

variable {d : Dec} {i : Instr} {rest : Bytes}

/-- The byte at the front of what is left of the stream is the next byte (10_state.md R19). -/
theorem getElem?_of_drop_eq_cons {bs : Bytes} {n : Nat} {b : Byte} (h : bs.drop n = b :: rest) :
    bs[n]? = some b ∧ rest = bs.drop (n + 1) :=
  ⟨by rw [← List.head?_drop, h]; rfl, by rw [← List.tail_drop, h]; rfl⟩

theorem Dec.fetch_of_readFlagByte (hst : d.state = .readFlagByte) : d.fetch = d.fetchHeader := by
  rw [Dec.fetch, hst]

theorem Dec.fetch_of_dispatch (hst : d.state = .dispatch) : d.fetch = d.fetchItem := by
  rw [Dec.fetch, hst]

/-- In `ReadFlagByte` with a byte left (R137). -/
theorem Dec.fetch_flagByte {f : Byte} (hst : d.state = .readFlagByte) (hget : d.src[d.ipos]? = some f) :
    d.fetch = .item (.flags f) { d with ipos := d.ipos + 1 } := by
  rw [Dec.fetch_of_readFlagByte hst, Dec.fetchHeader, Dec.srcNext, hget]

/-- In `ReadFlagByte` at the end of the stream (R137, R142). -/
theorem Dec.fetch_noFlagByte (hst : d.state = .readFlagByte) (hget : d.src[d.ipos]? = none) : d.fetch = .moved d.stop := by
  rw [Dec.fetch_of_readFlagByte hst, Dec.fetchHeader, Dec.srcNext, hget]

/-- In `ReadFlagByte` the parser finds the flag byte that the decoder reads. -/
theorem Dec.fetch_of_decode_header (hst : d.state = .readFlagByte) (h : decode .header (d.src.drop d.ipos) = .ok (i, rest)) :
    d.fetch = .item i { d with ipos := d.ipos + 1 } ∧ rest = d.src.drop (d.ipos + 1) := by
  obtain ⟨f, -, hdrop, rfl⟩ | ⟨b, hsl, -⟩ | ⟨b1, b2, hsl, -⟩ := decode_eq_ok h
  · obtain ⟨hget, hrest⟩ := getElem?_of_drop_eq_cons hdrop
    exact ⟨Dec.fetch_flagByte hst hget, hrest⟩
  · cases hsl
  · cases hsl

/-- A literal, under a flag bit 0 (R138, R139). -/
theorem Dec.fetch_literal {b : Byte} (hst : d.state = .dispatch) (h0 : d.fcnt ≠ 0) (hflag : flgBit d.flg = false)
    (hdrop : d.src.drop d.ipos = b :: rest) :
    d.fetch = .item (.lit b) (d.itemFetched 1) ∧ rest = d.src.drop (d.ipos + 1) := by
  obtain ⟨hget, hrest⟩ := getElem?_of_drop_eq_cons hdrop
  refine ⟨?_, hrest⟩
  rw [Dec.fetch_of_dispatch hst]
  simp [Dec.fetchItem, Dec.shift_of_fcnt_ne_zero h0, h0, hflag, Dec.fetchLiteral, Dec.srcNext, hget, Dec.itemFetched]

/-- A token, under a flag bit 1 (R138, R140). -/
theorem Dec.fetch_token {b1 b2 : Byte} (hst : d.state = .dispatch) (h0 : d.fcnt ≠ 0) (hflag : flgBit d.flg = true)
    (hdrop : d.src.drop d.ipos = b1 :: b2 :: rest) :
    d.fetch = .item (decodeToken b1 b2) (d.itemFetched 2) ∧ rest = d.src.drop (d.ipos + 2) := by
  obtain ⟨hget1, hrest1⟩ := getElem?_of_drop_eq_cons hdrop
  obtain ⟨hget2, hrest2⟩ := getElem?_of_drop_eq_cons hrest1.symm
  refine ⟨?_, hrest2⟩
  rw [Dec.fetch_of_dispatch hst]
  simp [Dec.fetchItem, Dec.shift_of_fcnt_ne_zero h0, h0, hflag, Dec.fetchToken1, Dec.fetchToken2, Dec.srcNext, hget1,
    hget2, Dec.itemFetched, List.getD_eq_getElem?_getD]

/-- In `Dispatch` with a flag bit left, whatever it is, the parser finds the item that the decoder reads under that bit. -/
theorem Dec.fetch_of_decode_item (hst : d.state = .dispatch) (h0 : d.fcnt ≠ 0)
    (h : decode (.item (flgBit d.flg)) (d.src.drop d.ipos) = .ok (i, rest)) :
    d.fetch = .item i (d.itemFetched i.size) ∧ rest = d.src.drop (d.ipos + i.size) := by
  obtain ⟨f, hsl, -⟩ | ⟨b, hsl, hdrop, rfl⟩ | ⟨b1, b2, hsl, hdrop, rfl⟩ := decode_eq_ok h
  · cases hsl
  · exact Dec.fetch_literal hst h0 (Slot.item.inj hsl) hdrop
  · rw [size_decodeToken]
    exact Dec.fetch_token hst h0 (Slot.item.inj hsl) hdrop

/-- A step of DEC that finds an item runs it. -/
theorem step_eq_exec_of_fetch {s : State} {d : Dec} (hs : s.start = false) (hop : s.op = .decompress)
    (hfetch : s.dec.fetch = .item i d) : step s = exec i { s with dec := d } := by
  simp [step, hs, hop, decStep, hfetch]

/-- A step of DEC in which the parser alone moves. -/
theorem step_eq_next_of_moved {s : State} {d : Dec} (hs : s.start = false) (hop : s.op = .decompress)
    (hfetch : s.dec.fetch = .moved d) : step s = .next { s with dec := d } := by
  simp [step, hs, hop, decStep, hfetch]

/-- Settles O9: under the flag bit on top the parser finds the item that the decoder reads. -/
theorem stepRunsTheDecodedItem : Obligations.StepRunsTheDecodedItem := by
  intro s i rest hs hop hst h0 hdec
  obtain ⟨hfetch, hrest⟩ := Dec.fetch_of_decode_item hst h0 hdec
  exact ⟨step_eq_exec_of_fetch hs hop hfetch, hrest⟩

/-- Settles O10: the parser finds the flag byte that the decoder reads. -/
theorem stepRunsTheDecodedFlagByte : Obligations.StepRunsTheDecodedFlagByte := by
  intro s i rest hs hop hst hdec
  obtain ⟨hfetch, hrest⟩ := Dec.fetch_of_decode_header hst hdec
  exact ⟨step_eq_exec_of_fetch hs hop hfetch, hrest⟩

/-- Settles O15: `FLAGS` is `loadFlags`, and `ReadFlagByte` does it with the byte at `IPOS`, or stops. -/
theorem flagByteLoadsTheShiftRegister : Obligations.FlagByteLoadsTheShiftRegister := by
  refine ⟨fun f s => rfl, fun s hs hop hst => ⟨fun f hget => ?_, fun hget => ?_⟩⟩
  · exact step_eq_exec_of_fetch hs hop (Dec.fetch_flagByte hst hget)
  · exact step_eq_next_of_moved hs hop (Dec.fetch_noFlagByte hst hget)

/-- The top flag bit says whether the byte is at least 128. -/
theorem flgBit_eq_decide (f : Byte) : flgBit f = decide (128 ≤ f.toNat) :=
  (BitVec.msb_eq_getLsbD_last f).symm.trans (BitVec.msb_eq_decide f)

theorem flgShift_toNat (f : Byte) : (flgShift f).toNat = f.toNat * 2 % 256 := by
  rw [flgShift, BitVec.toNat_shiftLeft, Nat.shiftLeft_eq]

/-- Settles O11: the row of `Dispatch` is the shift, and where it ends a group it is the whole step. -/
theorem shiftConsumesTheTopFlagBit : Obligations.ShiftConsumesTheTopFlagBit := by
  intro s lim hst
  rw [Dec.micro_of_dispatch lim hst]
  refine ⟨fun h0 => ?_, fun h0 => ?_⟩
  · rw [Dec.shift_of_fcnt_eq_zero h0]
    refine ⟨rfl, fun hs hop => ?_⟩
    refine step_eq_next_of_moved hs hop ?_
    rw [Dec.fetch_of_dispatch hst, Dec.fetchItem, if_pos h0, Dec.shift_of_fcnt_eq_zero h0]
  · rw [Dec.shift_of_fcnt_ne_zero h0]
    refine ⟨_, rfl, flgShift_toNat _, Nat.sub_one_add_one h0, ?_, rfl⟩
    have hbit : s.dec.flg.toNat / 128 = 0 ↔ ¬ 128 ≤ s.dec.flg.toNat := by omega
    simp only [flgBit_eq_decide, decide_eq_true_eq, hbit, ite_not]

end Sys2Proof.Machine

/-! ## How far a step moves in the stream (43_token_parser.md R144) -/

namespace Sys2Proof.Machine

variable {lim : Option Nat} {d r : Dec}

theorem Dec.limitTest_ipos (lim : Option Nat) (d : Dec) : (Dec.limitTest lim d).ipos = d.ipos := by
  unfold Dec.limitTest
  split <;> rfl

theorem Dec.wrLit_ipos {b : Byte} (h : d.wrLit lim b = .ok r) : r.ipos = d.ipos := by
  rw [d.wrLit_eq lim b (Dec.cur_lt_of_wrLit_eq_ok h)] at h
  cases h; rfl

theorem Dec.copyStep_ipos (h : d.copyStep lim = .ok r) : r.ipos = d.ipos := by
  obtain ⟨-, d1, hbyte, rfl⟩ := Dec.copyStep_eq_ok h
  obtain ⟨_, _, _, _, rfl⟩ := Dec.copyByte_eq_ok hbyte
  rw [Dec.limitTest_ipos]
  split <;> rfl

theorem Dec.copyRun_ipos {n : Nat} (h : Dec.copyRun lim n d = .ok r) : r.ipos = d.ipos := by
  induction n generalizing d with
  | zero => cases h
  | succ n ih =>
    rw [Dec.copyRun] at h
    split at h
    · cases h
    next hstep =>
      split at h
      · exact (ih h).trans (Dec.copyStep_ipos hstep)
      · cases h; exact Dec.copyStep_ipos hstep

theorem Dec.copyItem_ipos {off : BitVec 10} {len : BitVec 6} (h : d.copyItem lim off len = .ok r) : r.ipos = d.ipos :=
  Dec.copyRun_ipos (d := (d.latch off len).copyStart) h

/-- Only the parser's fetches move `IPOS`; what an item does leaves it as it is. -/
theorem Dec.execItem_ipos {i : Instr} (h : d.execItem lim i = .ok r) : r.ipos = d.ipos := by
  cases i with
  | flags f => cases h; rfl
  | lit b => exact Dec.wrLit_ipos h
  | nop off => cases h; rfl
  | copy off len => exact Dec.copyItem_ipos h
  | copy0 len => exact Dec.copyItem_ipos h

/-- The parser moves past what it finds, item or flag byte, by its size. -/
theorem Dec.fetch_ipos_of_decode {sl : Slot} {i : Instr} {rest : Bytes}
    (hsl : d.state = .readFlagByte ∧ sl = .header ∨ d.state = .dispatch ∧ d.fcnt ≠ 0 ∧ sl = .item (flgBit d.flg))
    (h : decode sl (d.src.drop d.ipos) = .ok (i, rest)) :
    ∃ d1, d.fetch = .item i d1 ∧ d1.ipos = d.ipos + i.size := by
  obtain ⟨hst, rfl⟩ | ⟨hst, h0, rfl⟩ := hsl
  · obtain ⟨f, -, -, rfl⟩ | ⟨b, hsl, -⟩ | ⟨b1, b2, hsl, -⟩ := decode_eq_ok h
    · exact ⟨_, (Dec.fetch_of_decode_header hst h).1, rfl⟩
    · cases hsl
    · cases hsl
  · exact ⟨_, (Dec.fetch_of_decode_item hst h0 h).1, rfl⟩

/-- Settles O14: the fetch moves `IPOS` by the item's size and the item leaves it there; and a step without a START extends
both engines. -/
theorem streamPositionAdvancesBySize : Obligations.StreamPositionAdvancesBySize := by
  refine ⟨fun s t i rest sl hs hop hsl hdec hstep => ?_, fun s t hs hstep => ?_⟩
  · obtain ⟨d, hfetch, hipos⟩ := Dec.fetch_ipos_of_decode hsl hdec
    rw [step_eq_exec_of_fetch hs hop hfetch, exec_eq_liftDec] at hstep
    obtain ⟨r, hr, rfl⟩ := State.liftDec_eq_next.1 hstep
    refine (Dec.execItem_ipos hr).trans (hipos.trans ?_)
    cases i <;> rfl
  · have hdec := (step_extends hs hstep).2
    exact ⟨hdec.ipos, hdec.src⟩

end Sys2Proof.Machine

/-! ## What ends a run (43_token_parser.md R142, R143) -/

namespace Sys2Proof.Machine

/-! ### The limit, in the middle of a copy or at its end -/

variable {lim : Option Nat} {src n k m : Nat} {d r : Dec}

/-- Where `OCNT` has reached the limit (R143). -/
theorem Dec.limitTest_of_eq (h : lim = some d.ocnt) : Dec.limitTest lim d = d.stop := by
  simp [Dec.limitTest, Dec.atLimit, h]

/-- A row of a copy under any limit. -/
theorem Dec.CopyingAt.copyStep_limitTest (h : d.CopyingAt none src (n + 1) k) (lim : Option Nat) :
    d.copyStep lim = .ok (Dec.limitTest lim (if n = 0 then (d.byteCopied src k).copyEnd else d.byteCopied src k)) := by
  rw [Dec.copyStep, if_neg (by rw [h.rem]; exact n.succ_ne_zero), h.copyByte]
  simp only [h.rem, Nat.add_eq_right]

/-- A copy that meets the limit at its byte `m` of those to go stops there, with the bytes of the loop up to it. -/
theorem Dec.CopyingAt.copyRun_limit (h : d.CopyingAt none src (n + 1) k) (hm : m ≤ n)
    (hlim : lim = some (d.ocnt + (m + 1))) :
    ∃ r, Dec.copyRun lim (n + 1) d = .ok r ∧ r.state = .done ∧ r.ocnt = d.ocnt + (m + 1) ∧
      r.out = d.out ++ (Ref.copyLoop src d.cur (n + 1) k d.win).1.take (m + 1) := by
  have hstep := h.copyStep_limitTest lim
  induction m generalizing d k n with
  | zero =>
    rw [Dec.limitTest_of_eq (by split <;> exact hlim)] at hstep
    refine ⟨_, Dec.copyRun_of_left hstep nofun n, rfl, ?_, ?_⟩
    · split <;> rfl
    · split <;> rfl
  | succ m ih =>
    obtain ⟨n, rfl⟩ := Nat.exists_eq_succ_of_ne_zero (show n ≠ 0 by omega)
    have hocnt : (d.byteCopied src k).ocnt + (m + 1) = d.ocnt + (m + 1 + 1) := by simp only [Dec.byteCopied]; omega
    have hne : lim ≠ some (d.byteCopied src k).ocnt := by rw [hlim, ← hocnt]; simp
    rw [if_neg n.succ_ne_zero, Dec.limitTest_of_ne hne] at hstep
    obtain ⟨r, hr, hdone, hrocnt, hrout⟩ :=
      ih h.byteCopied (by omega) (hocnt ▸ hlim) (h.byteCopied.copyStep_limitTest lim)
    refine ⟨r, (Dec.copyRun_of_copy hstep h.state _).trans hr, hdone, hrocnt.trans hocnt, hrout.trans ?_⟩
    simp [Dec.byteCopied, Ref.copyLoop]

/-- A whole copy that meets the limit at one of its bytes. -/
theorem Dec.copyItem_limit {off : BitVec 10} {len : BitVec 6} {b : Nat} (hc : d.cur < 1023) (hlim : lim = some b)
    (hlt : d.ocnt < b) (hle : b ≤ d.ocnt + len.toNat) :
    ∃ r, d.copyItem lim off len = .ok r ∧ r.state = .done ∧ r.ocnt = b ∧
      r.out = d.out ++ (Ref.copyLoop (windowSlot d.cur off.toNat) d.cur len.toNat 0 d.win).1.take (b - d.ocnt) := by
  have hcopy := Dec.copyStart_copyingAt (lim := none) off len hc (by simp)
  obtain ⟨n, hn⟩ : ∃ n, len.toNat = n + 1 := Nat.exists_eq_succ_of_ne_zero (by omega)
  obtain ⟨m, hm⟩ : ∃ m, b - d.ocnt = m + 1 := Nat.exists_eq_succ_of_ne_zero (by omega)
  obtain rfl : b = d.ocnt + (m + 1) := by omega
  rw [Dec.copyItem, hm]
  rw [hn] at hcopy ⊢
  exact hcopy.copyRun_limit (by omega) hlim

/-- Either copy row is a copy from its fields (30_encoding.md R68). -/
theorem Dec.execItem_of_copies {i : Instr} {off : BitVec 10} {len : BitVec 6} (h : i.copies off len) (lim : Option Nat)
    (d : Dec) : d.execItem lim i = d.copyItem lim off len := by
  obtain ⟨-, ⟨-, rfl⟩ | ⟨rfl, rfl⟩⟩ := h <;> rfl

/-! ### An item ends a run only at the limit -/

theorem Dec.limitTest_done (h : (Dec.limitTest lim d).state = .done) (hs : d.state ≠ .done) :
    lim = some (Dec.limitTest lim d).ocnt := by
  by_contra hne
  have hocnt : (Dec.limitTest lim d).ocnt = d.ocnt := by
    unfold Dec.limitTest
    split <;> rfl
  rw [hocnt] at hne
  exact hs (Dec.limitTest_of_ne hne ▸ h)

theorem Dec.wrLit_done {b : Byte} (h : d.wrLit lim b = .ok r) (hr : r.state = .done) : lim = some r.ocnt := by
  rw [d.wrLit_eq lim b (Dec.cur_lt_of_wrLit_eq_ok h)] at h
  cases h
  by_contra hne
  rw [if_neg hne] at hr
  cases hr

theorem Dec.copyStep_done (hs : d.state = .copy) (h : d.copyStep lim = .ok r) (hr : r.state = .done) :
    lim = some r.ocnt := by
  obtain ⟨-, d1, hbyte, rfl⟩ := Dec.copyStep_eq_ok h
  refine Dec.limitTest_done hr ?_
  split
  · exact nofun
  · rw [Dec.copyByte_state hbyte, hs]; exact nofun

theorem Dec.copyRun_done (hs : d.state = .copy) (h : Dec.copyRun lim n d = .ok r) (hr : r.state = .done) :
    lim = some r.ocnt := by
  induction n generalizing d with
  | zero => cases h
  | succ n ih =>
    cases hstep : d.copyStep lim with
    | error f => rw [Dec.copyRun_of_error hstep] at h; cases h
    | ok d1 =>
      by_cases hc : d1.state = .copy
      · exact ih hc (Dec.copyRun_of_copy hstep hc n ▸ h)
      · rw [Dec.copyRun_of_left hstep hc] at h
        cases h
        exact Dec.copyStep_done hs hstep hr

theorem Dec.copyItem_done {off : BitVec 10} {len : BitVec 6} (h : d.copyItem lim off len = .ok r) (hr : r.state = .done) :
    lim = some r.ocnt :=
  Dec.copyRun_done (d := (d.latch off len).copyStart) rfl h hr

theorem Dec.execItem_done {i : Instr} (h : d.execItem lim i = .ok r) (hr : r.state = .done) : lim = some r.ocnt := by
  cases i with
  | flags f => cases h; cases hr
  | lit b => exact Dec.wrLit_done h hr
  | nop off => cases h; cases hr
  | copy off len => exact Dec.copyItem_done h hr
  | copy0 len => exact Dec.copyItem_done h hr

/-! ### Without a limit only the end of the stream ends a run -/

/-- A fetch that ends the run has met the end of the stream, at its own byte or at one of the `j` bytes after it. -/
theorem Dec.readNext_done {K : Byte → Dec → Fetched} {j : Nat} (h : (d.readNext K).perform none = .ok r)
    (hK : ∀ b, (K b { d with ipos := d.ipos + 1 }).perform none = .ok r → d.src.length ≤ d.ipos + j) :
    d.src.length ≤ d.ipos + j := by
  rw [Dec.readNext] at h
  obtain ⟨hn, hend⟩ | ⟨b, hn, -⟩ := d.srcNext_cases <;> rw [hn] at h
  · exact Nat.le_add_right_of_le hend
  · exact hK b h

/-- A fetch whose next byte completes an item. -/
theorem Dec.readNextItem_done {i : Byte → Dec → Instr}
    (h : (d.readNext fun b d1 => .item (i b d1) d1).perform none = .ok r)
    (hr : r.state = .done) : d.src.length ≤ d.ipos :=
  Dec.readNext_done (j := 0) h fun b h => nomatch Dec.execItem_done (i := i b _) h hr

theorem Dec.fetchHeader_done (h : d.fetchHeader.perform none = .ok r) (hr : r.state = .done) : d.src.length ≤ d.ipos := by
  rw [Dec.fetchHeader_eq_readNext] at h
  exact Dec.readNextItem_done h hr

theorem Dec.fetchLiteral_done (h : d.fetchLiteral.perform none = .ok r) (hr : r.state = .done) :
    d.src.length ≤ d.ipos := by
  rw [Dec.fetchLiteral_eq_readNext] at h
  exact Dec.readNextItem_done h hr

theorem Dec.fetchToken2_done (h : d.fetchToken2.perform none = .ok r) (hr : r.state = .done) : d.src.length ≤ d.ipos := by
  rw [Dec.fetchToken2_eq_readNext] at h
  exact Dec.readNextItem_done h hr

theorem Dec.fetchToken1_done (h : d.fetchToken1.perform none = .ok r) (hr : r.state = .done) :
    d.src.length ≤ d.ipos + 1 := by
  rw [Dec.fetchToken1_eq_readNext] at h
  exact Dec.readNext_done h fun _ h => Dec.fetchToken2_done h hr

theorem Dec.fetchItem_done (h : d.fetchItem.perform none = .ok r) (hr : r.state = .done) :
    d.fcnt ≠ 0 ∧ d.src.length ≤ d.ipos + if flgBit d.flg then 1 else 0 := by
  rw [Dec.fetchItem] at h
  split at h
  · next h0 =>
    rw [Dec.shift_of_fcnt_eq_zero h0] at h
    cases h; cases hr
  next h0 =>
    obtain ⟨hsrc, hipos⟩ : d.shift.src = d.src ∧ d.shift.ipos = d.ipos := by
      rw [Dec.shift_of_fcnt_ne_zero h0]; exact ⟨rfl, rfl⟩
    rw [← hsrc, ← hipos]
    refine ⟨h0, ?_⟩
    split at h
    · next hbit => rw [if_pos hbit]; exact Dec.fetchToken1_done h hr
    · next hbit => rw [if_neg hbit]; exact Dec.fetchLiteral_done h hr

/-- A step without a limit that ends a run lacks bytes (60_exceptions.md R202). -/
theorem Dec.lacksBytes_of_itemStep_done (hrun : d.running = true) (h : d.itemStep none = .ok r) (hr : r.state = .done) :
    d.lacksBytes := by
  rw [Dec.itemStep_eq_perform, Dec.fetch] at h
  rw [Dec.lacksBytes]
  cases hs : d.state <;> rw [hs] at h
  case idle | done => simp [Dec.running, hs] at hrun
  case readFlagByte => exact Dec.fetchHeader_done h hr
  case dispatch => exact Dec.fetchItem_done h hr
  case readLiteral => exact Dec.fetchLiteral_done h hr
  case readToken1 => exact Dec.fetchToken1_done h hr
  case readToken2 => exact Dec.fetchToken2_done h hr
  case copy => cases Dec.copyRun_done hs h hr

/-! ### The statement's clauses -/

/-- Nothing is emitted in `Done` (R142). -/
theorem step_of_done_out {s t : State} (hs : s.start = false) (hdone : s.dec.state = .done) (h : step s = .next t) :
    t.dec.out = s.dec.out := by
  cases hop : s.op with
  | compress => rw [(step_compress_independent hop h).1]
  | decompress =>
    rw [(doneStaysUntilTheNextStart s hs).2 hop (Dec.running_eq_false.2 (.inr hdone))] at h
    cases h; rfl

/-- Settles O22: the limit test after a literal and after each byte of a copy, the start's own test, and, without a limit, the
fetches that can end a run. -/
theorem outputLimitTruncates : Obligations.OutputLimitTruncates := by
  refine ⟨fun s b hlim hc => ?_, fun s i off len n hi hc hlim hlt hle => ?_, fun s t => step_of_done_out,
    fun s hs hlim => ?_, fun s t hs hop hlim hrun hstep hdone => ?_⟩
  · rw [exec_eq_liftDec, Dec.execItem, s.dec.wrLit_eq _ b hc]
    exact ⟨_, rfl, if_pos hlim, rfl, rfl⟩
  · obtain ⟨r, hr, hdone, hocnt, hout⟩ := Dec.copyItem_limit (off := off) hc hlim hlt hle
    refine ⟨{ s with dec := r }, ?_, hdone, hocnt, hout⟩
    rw [exec_eq_liftDec, Dec.execItem_of_copies hi, hr]
    rfl
  · obtain ⟨hop, hstart, hidle⟩ := hs
    exact ⟨_, (step_decompress_eq_next hop).2 (.inl ⟨hstart, hidle, rfl⟩), if_pos hlim, rfl⟩
  · obtain ⟨hs', -⟩ | ⟨-, d, hd, rfl⟩ := (step_decompress_eq_next hop).1 hstep
    · simp [hs] at hs'
    · rw [hlim] at hd
      exact Dec.lacksBytes_of_itemStep_done hrun hd hdone

end Sys2Proof.Machine

/-! ## Literals and no-ops (44_window_reconstructor.md R156, R157) -/

namespace Sys2Proof.Machine

/-- Settles O16: it is what `Dec.wrLit_eq` says of `WR.LIT`, the cursor's move read modulo 1023. -/
theorem literalIsEmittedAndWritten : Obligations.LiteralIsEmittedAndWritten := by
  intro b s hc
  rw [exec_eq_liftDec, Dec.execItem, s.dec.wrLit_eq _ b hc, windowNext_eq_mod hc]
  rfl

/-- Settles O17: a literal that answers has its cursor in the window, and its one write is there. -/
theorem literalFrame : Obligations.LiteralFrame := by
  intro b s t hwf h
  rw [exec_eq_liftDec, State.liftDec_eq_next] at h
  obtain ⟨d, hd, rfl⟩ := h
  rw [Dec.execItem, s.dec.wrLit_eq _ b (Dec.cur_lt_of_wrLit_eq_ok hd)] at hd
  cases hd
  exact ⟨fun a => Memory.read_write hwf.1, rfl⟩

/-- Two bytes of the stream, one after the other, are the front of what is left of it. -/
theorem drop_eq_cons_cons {bs : Bytes} {n : Nat} {b1 b2 : Byte} (h1 : bs[n]? = some b1) (h2 : bs[n + 1]? = some b2) :
    bs.drop n = b1 :: b2 :: bs.drop (n + 2) := by
  obtain ⟨hn1, rfl⟩ := List.getElem?_eq_some_iff.1 h1
  obtain ⟨hn2, rfl⟩ := List.getElem?_eq_some_iff.1 h2
  rw [List.drop_eq_getElem_cons hn1, List.drop_eq_getElem_cons hn2]

/-- A token whose byte1 is below 4 has length field 0, whatever its offset field (30_encoding.md R65, R71). -/
theorem decodeToken_of_lt_four {b1 : Byte} (b2 : Byte) (h : b1.toNat < 4) :
    decodeToken b1 b2 = .nop (unpackOffset b1 b2) := by
  have hlen : unpackLength b1 = 0 := BitVec.eq_of_toNat_eq ((unpackLength_toNat b1).trans (Nat.div_eq_of_lt h))
  rw [decodeToken, if_pos hlen]

/-- Settles O18: the parser finds the no-op, and running it fills the latches and goes back to `Dispatch`. -/
theorem nopOnlyMovesTheParser : Obligations.NopOnlyMovesTheParser := by
  refine ⟨fun off s => rfl, fun s b1 b2 hs hop hst h0 hflag h1 h2 hb1 => ?_⟩
  have hfetch := (Dec.fetch_token hst h0 hflag (drop_eq_cons_cons h1 h2)).1
  rw [step_eq_exec_of_fetch hs hop hfetch, decodeToken_of_lt_four b2 hb1]
  simp [exec, execNop, Dec.latch, Dec.wrNop, Dec.itemFetched, hflag, hst, List.getD_eq_getElem?_getD, h1]

end Sys2Proof.Machine

/-! ## A copy does not read the offset latch once it has started (44_window_reconstructor.md R158, R162) -/

namespace Sys2Proof.Machine

variable {lim : Option Nat} {d : Dec}

/-- `d` with another offset latch. -/
def Dec.withOff (off : BitVec 10) (d : Dec) : Dec := { d with off := off }

theorem Dec.limitTest_withOff (lim : Option Nat) (off : BitVec 10) (d : Dec) :
    Dec.limitTest lim (d.withOff off) = (Dec.limitTest lim d).withOff off := by
  unfold Dec.limitTest
  exact (apply_ite (Dec.withOff off) (d.atLimit lim = true) d.stop d).symm

/-- `WR.COPY_BYTE` goes by the copy registers (R159). -/
theorem Dec.copyByte_withOff (off : BitVec 10) (d : Dec) :
    (d.withOff off).copyByte = d.copyByte.map (Dec.withOff off) := by
  unfold Dec.copyByte Dec.readWin Dec.writeWin
  dsimp only [Dec.withOff, Dec.emit]
  cases memRead .win Config.windowSize d.win d.srcp with
  | error f => rfl
  | ok b =>
    dsimp only
    cases memWrite .win Config.windowSize d.win d.dstp b <;> rfl

theorem Dec.copyStep_withOff (lim : Option Nat) (off : BitVec 10) (d : Dec) :
    (d.withOff off).copyStep lim = (d.copyStep lim).map (Dec.withOff off) := by
  have hrem : (d.withOff off).rem = d.rem := rfl
  rw [Dec.copyStep, Dec.copyStep, Dec.copyByte_withOff, hrem]
  by_cases h0 : d.rem = 0
  · rw [if_pos h0, if_pos h0]; rfl
  · rw [if_neg h0, if_neg h0]
    cases d.copyByte with
    | error f => rfl
    | ok d1 =>
      have hend : (if d.rem = 1 then (d1.withOff off).copyEnd else d1.withOff off) =
          (if d.rem = 1 then d1.copyEnd else d1).withOff off :=
        (apply_ite (Dec.withOff off) (d.rem = 1) d1.copyEnd d1).symm
      exact congrArg Except.ok ((congrArg _ hend).trans (Dec.limitTest_withOff ..))

theorem Dec.copyRun_withOff (lim : Option Nat) (off : BitVec 10) (n : Nat) (d : Dec) :
    Dec.copyRun lim n (d.withOff off) = (Dec.copyRun lim n d).map (Dec.withOff off) := by
  induction n generalizing d with
  | zero => rfl
  | succ n ih =>
    have hstep := Dec.copyStep_withOff lim off d
    cases hd : d.copyStep lim with
    | error f =>
      rw [hd] at hstep
      rw [Dec.copyRun_of_error hd, Dec.copyRun_of_error hstep]; rfl
    | ok d1 =>
      rw [hd] at hstep
      by_cases hc : d1.state = .copy
      · rw [Dec.copyRun_of_copy hd hc, Dec.copyRun_of_copy hstep hc, ih]
      · rw [Dec.copyRun_of_left hd hc, Dec.copyRun_of_left hstep hc]; rfl

/-- The slot a whole window back is the cursor's own (R162). -/
theorem windowSlot_1023 {c : Nat} (hc : c < 1023) : windowSlot c 1023 = windowSlot c 0 := by
  simp [windowSlot, Nat.not_le.2 hc]

/-- Offset 0 stands for distance 1023 (R162): the two copies differ in the offset latch alone, whatever the limit. -/
theorem Dec.copyItem_zero (lim : Option Nat) (len : BitVec 6) (hc : d.cur < 1023) :
    d.copyItem lim 0#10 len = (d.copyItem lim 1023#10 len).map (Dec.withOff 0#10) := by
  have hstart : (d.latch 0#10 len).copyStart = (d.latch 1023#10 len).copyStart.withOff 0#10 := by
    have hslot := windowSlot_1023 hc
    simp [Dec.latch, Dec.copyStart, Dec.withOff, hslot]
  rw [Dec.copyItem, hstart, Dec.copyRun_withOff, Dec.copyItem]

/-- Settles O20: offset 0 starts at the cursor, and so does offset 1023; past the start only the latch tells them apart. -/
theorem copy0CopiesFrom1023Back : Obligations.Copy0CopiesFrom1023Back := by
  intro len s hc hlen
  refine ⟨fun hlim => ?_, ?_⟩
  · have hcopy := Dec.copyItem_eq_copied (off := 0#10) hc hlen hlim
    rw [exec_eq_liftDec, Dec.execItem, hcopy]
    rfl
  · obtain ⟨r, hr⟩ := Dec.copyItem_answers s.outLimit 1023#10 hc hlen
    refine ⟨{ s with dec := r }, ?_, ?_⟩
    · rw [exec_eq_liftDec, Dec.execItem, hr]; rfl
    · rw [exec_eq_liftDec, Dec.execItem, Dec.copyItem_zero _ _ hc, hr]; rfl

end Sys2Proof.Machine

/-! ## What a copy writes (44_window_reconstructor.md R158 to R160) -/

namespace Sys2Proof.Machine

/-- `r` is `d` but for what a started copy writes, and of the window only slots in `W` read otherwise. -/
structure Dec.CopyWrites (W : Set Nat) (d r : Dec) : Prop where
  winWf : Memory.wf Space.win.unlisted Config.windowSize r.win
  read : ∀ a, a ∉ W → Memory.read Space.win.unlisted r.win a = Memory.read Space.win.unlisted d.win a
  registers : r = { d with
    srcp := r.srcp, dstp := r.dstp, rem := r.rem, stg := r.stg, out := r.out, ocnt := r.ocnt, win := r.win
    cur := r.cur, state := r.state }

variable {W : Set Nat} {lim : Option Nat} {src n k : Nat} {d d1 r : Dec}

theorem Dec.CopyWrites.trans (h1 : d.CopyWrites W d1) (h2 : d1.CopyWrites W r) : d.CopyWrites W r where
  winWf := h2.winWf
  read := fun a ha => (h2.read a ha).trans (h1.read a ha)
  registers := h2.registers.trans (by rw [h1.registers])

theorem Dec.CopyWrites.copyEnd (h : d.CopyWrites W r) : d.CopyWrites W r.copyEnd :=
  ⟨h.winWf, h.read, by rw [h.registers]; rfl⟩

theorem Dec.CopyWrites.limitTest (h : d.CopyWrites W r) (lim : Option Nat) : d.CopyWrites W (Dec.limitTest lim r) := by
  unfold Dec.limitTest
  split
  · exact ⟨h.winWf, h.read, by rw [h.registers]; rfl⟩
  · exact h

/-- One byte of a copy is written at its own slot from the cursor on (R159). -/
theorem Dec.byteCopied_writes (hwf : Memory.wf Space.win.unlisted Config.windowSize d.win) (hk : windowAt d.cur k ∈ W) :
    d.CopyWrites W (d.byteCopied src k) where
  winWf := Memory.write_wf hwf (windowAt_lt d.cur k)
  read := fun _ ha => Memory.read_write_other hwf fun h => ha (h ▸ hk)
  registers := rfl

/-- A copy, stopped by the limit or not, writes within the slots of the bytes it has to go. -/
theorem Dec.CopyingAt.copyRun_writes (h : d.CopyingAt none src n k)
    (hwf : Memory.wf Space.win.unlisted Config.windowSize d.win)
    (hW : ∀ j, j < n → windowAt d.cur (k + j) ∈ W) (hr : Dec.copyRun lim n d = .ok r) : d.CopyWrites W r := by
  induction n generalizing d k with
  | zero => cases hr
  | succ n ih =>
    have hbyte : d.CopyWrites W (d.byteCopied src k) := Dec.byteCopied_writes hwf (hW 0 n.succ_pos)
    have hstep := h.copyStep_limitTest lim
    by_cases hc : (Dec.limitTest lim (if n = 0 then (d.byteCopied src k).copyEnd else d.byteCopied src k)).state = .copy
    · rw [Dec.copyRun_of_copy hstep hc] at hr
      have hgo := Dec.limitTest_eq_of_copy hc
      rw [hgo] at hc hr
      split at hc
      · cases hc
      next hn =>
        rw [if_neg hn] at hr
        exact hbyte.trans (ih h.byteCopied hbyte.winWf (fun j hj => by
          rw [show k + 1 + j = k + (j + 1) by omega]
          exact hW (j + 1) (Nat.succ_lt_succ hj)) hr)
    · rw [Dec.copyRun_of_left hstep hc] at hr
      cases hr
      refine Dec.CopyWrites.limitTest ?_ lim
      split
      · exact hbyte.copyEnd
      · exact hbyte

/-- The slots of the `len` bytes from window index `cur` on (20_memory.md R43, R51). -/
def windowRun (cur len : Nat) : Set Nat := { a | ∃ k, k < len ∧ a = windowAt cur k }

/-- Settles O21: each row writes the next slot from the cursor on, and the token's own latches were filled before. -/
theorem copyFrame : Obligations.CopyFrame := by
  intro i off len s t hi hc hwf h
  rw [exec_eq_liftDec, Dec.execItem_of_copies hi, State.liftDec_eq_next] at h
  obtain ⟨r, hr, rfl⟩ := h
  have hcopy := Dec.copyStart_copyingAt (lim := none) off len hc (by simp)
  have hwrites := hcopy.copyRun_writes (W := windowRun s.dec.cur len.toNat) hwf
    (fun k hk => ⟨k, hk, congrArg _ (Nat.zero_add k)⟩) hr
  refine ⟨fun a ha => hwrites.read a ?_, congrArg _ hwrites.registers⟩
  rintro ⟨k, hk, heq⟩
  exact ha k hk heq

end Sys2Proof.Machine

/-! ## A copy on the history (20_memory.md R55, 44_window_reconstructor.md R161 to R163) -/

namespace Sys2Proof.Machine

/-! ### The bytes `Ref.copyBack` appends -/

variable {dist n : Nat} {out : Bytes}

theorem copyBack_prefix (dist n : Nat) (out : Bytes) : out <+: Ref.copyBack dist n out := by
  induction n generalizing out with
  | zero => exact List.prefix_rfl
  | succ n ih => exact (List.prefix_append _ _).trans (ih _)

theorem length_copyBack (dist n : Nat) (out : Bytes) : (Ref.copyBack dist n out).length = out.length + n := by
  induction n generalizing out with
  | zero => rfl
  | succ n ih => rw [Ref.copyBack, ih, List.length_append, List.length_singleton]; omega

/-- Every byte appended is the one that stands the distance back in what came before it (R55). -/
theorem getElem?_copyBack {i : Nat} (h1 : out.length ≤ i) (h2 : i < out.length + n) :
    (Ref.copyBack dist n out)[i]? = some (Ref.hist ((Ref.copyBack dist n out).take i) dist) := by
  induction n generalizing out with
  | zero => omega
  | succ n ih =>
    rw [Ref.copyBack]
    obtain rfl | hlt := Nat.eq_or_lt_of_le h1
    · obtain ⟨rest, hrest⟩ := copyBack_prefix dist n (out ++ [Ref.hist out dist])
      rw [← hrest]
      simp
    · exact ih (by simpa using hlt) (by simp; omega)

/-- Before the first byte of the output the history is 0x11 (R55). -/
theorem hist_of_length_lt {d : Nat} (h : out.length < d) : Ref.hist out d = 0x11#8 := if_neg (Nat.not_le.2 h)

/-- Within the output it is the byte that stands `d` back. -/
theorem some_hist {d : Nat} (h1 : 1 ≤ d) (h2 : d ≤ out.length) : some (Ref.hist out d) = out[out.length - d]? := by
  rw [Ref.hist, if_pos h2, List.getD_eq_getElem?_getD, List.getElem?_eq_getElem (by omega)]
  rfl

/-! ### The window's bytes and the history's -/

variable {win : Memory} {src cur k : Nat}

/-- The loop over the window emits the history, byte after byte, while the window holds it. -/
theorem copyLoop_eq_copyBack (hwf : Memory.wf Space.win.unlisted Config.windowSize win) (h1 : 1 ≤ dist)
    (h2 : dist ≤ 1023) (hsrc : windowAt src k = windowSlot (windowAt cur k) dist)
    (hhist : ∀ j, 1 ≤ j → j ≤ 1023 →
      Memory.read Space.win.unlisted win (windowSlot (windowAt cur k) j) = Ref.hist out j) :
    out ++ (Ref.copyLoop src cur n k win).1 = Ref.copyBack dist n out := by
  induction n generalizing k win out with
  | zero => exact List.append_nil out
  | succ n ih =>
    have hlt := windowAt_lt cur k
    have hbyte : Memory.read Space.win.unlisted win (windowAt src k) = Ref.hist out dist := by rw [hsrc, hhist dist h1 h2]
    have hsrc' : windowAt src (k + 1) = windowSlot (windowAt cur (k + 1)) dist := by
      rw [← windowNext_windowAt, ← windowNext_windowAt cur, hsrc, windowNext_windowSlot hlt h2]
    have hhist' := history_emit (Ref.hist out dist) hlt hwf hhist
    rw [windowNext_windowAt] at hhist'
    rw [Ref.copyLoop, Ref.copyBack, hbyte, ← ih (Memory.write_wf hwf hlt) hsrc' hhist', List.append_assoc]
    rfl

theorem distance_bounds (off : BitVec 10) : 1 ≤ Ref.distance off ∧ Ref.distance off ≤ 1023 := by
  unfold Ref.distance
  split
  · exact ⟨by omega, le_rfl⟩
  next h =>
    have hpos : off.toNat ≠ 0 := fun h0 => h (BitVec.eq_of_toNat_eq h0)
    exact ⟨Nat.one_le_iff_ne_zero.2 hpos, Nat.le_of_lt_succ off.isLt⟩

/-- A token's source is its distance back from the cursor (R158, R162). -/
theorem windowSlot_distance {c : Nat} (hc : c < 1023) (off : BitVec 10) :
    windowSlot c off.toNat = windowSlot c (Ref.distance off) := by
  unfold Ref.distance
  split
  · next h => rw [h, windowSlot_1023 hc]; rfl
  · rfl

/-! ### Whole copies -/

/-- DEC in a run, outside a copy, after a copy with no limit in the way. -/
theorem Dec.Inv.copied_out {lim : Option Nat} {d : Dec} (h : d.Inv lim) (hr : d.running = true) (hs : d.state ≠ .copy)
    (off : BitVec 10) (len : BitVec 6) :
    (d.copied off len (windowSlot d.cur off.toNat)).out = Ref.copyBack (Ref.distance off) len.toNat d.out := by
  obtain ⟨h1, h2⟩ := distance_bounds off
  have hslot := windowSlot_distance h.cur off
  have hcur : d.writeIndex = d.cur := if_neg hs
  refine copyLoop_eq_copyBack h.winWf h1 h2 ?_ ?_
  · rw [hslot, windowAt_zero h.cur, windowAt_zero (windowSlot_lt h.cur h2)]
  · rw [windowAt_zero h.cur, ← hcur]
    exact h.history hr

/-- Settles O23: the loop over the window is the loop over the history that the invariant says the window holds. -/
theorem copyAppendsTheHistory : Obligations.CopyAppendsTheHistory := by
  intro i off len s hi hinv hr hs hlim
  refine ⟨{ s with dec := s.dec.copied off len (windowSlot s.dec.cur off.toNat) }, ?_, hinv.dec.copied_out hr hs off len⟩
  rw [exec_eq_liftDec, Dec.execItem_of_copies hi, Dec.copyItem_eq_copied hinv.dec.cur hi.1 hlim]
  rfl

/-- The output that a copy which answers leaves. -/
theorem out_of_exec_copies {i : Instr} {off : BitVec 10} {len : BitVec 6} {s t : State} (hi : i.copies off len)
    (hinv : s.Inv) (hr : s.dec.running = true) (hs : s.dec.state ≠ .copy) (hlim : s.noLimitWithin len.toNat)
    (h : exec i s = .next t) :
    t.dec.out = Ref.copyBack (if off = 0 then 1023 else off.toNat) len.toNat s.dec.out := by
  obtain ⟨t', ht', hout⟩ := copyAppendsTheHistory i off len s hi hinv hr hs hlim
  cases h.symm.trans ht'
  exact hout

/-- Settles O24: the byte appended is the history's at its offset, which lies in the output. -/
theorem overlappingCopyRepeats : Obligations.OverlappingCopyRepeats := by
  intro off len s t hoff hlen hinv hr hs hlim h k hk hle
  have hout := out_of_exec_copies (i := .copy off len) ⟨hlen, .inl ⟨hoff, rfl⟩⟩ hinv hr hs hlim h
  rw [if_neg hoff] at hout
  have hpos : 1 ≤ off.toNat := Nat.one_le_iff_ne_zero.2 fun h0 => hoff (BitVec.eq_of_toNat_eq h0)
  have hlt : s.dec.out.length + k < t.dec.out.length := by rw [hout, length_copyBack]; omega
  have htake : (t.dec.out.take (s.dec.out.length + k)).length = s.dec.out.length + k := List.length_take_of_le hlt.le
  refine ⟨?_, hlt⟩
  calc t.dec.out[s.dec.out.length + k]?
      = some (Ref.hist (t.dec.out.take (s.dec.out.length + k)) off.toNat) := by
        rw [hout]; exact getElem?_copyBack (Nat.le_add_right _ k) (by omega)
    _ = (t.dec.out.take (s.dec.out.length + k))[s.dec.out.length + k - off.toNat]? := by
        rw [some_hist hpos (by omega), htake]
    _ = t.dec.out[s.dec.out.length + k - off.toNat]? := List.getElem?_take_of_lt (by omega)

/-- Settles O25: the byte appended is the history's from before its start. -/
theorem copyOfPreHistoryIsFill : Obligations.CopyOfPreHistoryIsFill := by
  intro i off len s t hi hinv hr hs hlim h k hk hlt
  rw [out_of_exec_copies hi hinv hr hs hlim h, getElem?_copyBack (Nat.le_add_right _ k) (by omega),
    hist_of_length_lt (lt_of_le_of_lt (List.length_take_le _ _) hlt)]

end Sys2Proof.Machine

/-! ## `decode` item by item (45_reference_functions.md R176)

`Ref.decodeRest` is the loop of `decode` with all the rounds it needs. It is described below by the decoder of the stream, one
equation for a flag byte, one for an item and one for each end of the stream. -/

namespace Sys2Proof

theorem Instr.size_pos (i : Instr) : 0 < i.size := by
  cases i <;> exact Nat.succ_pos _

/-- An item that is decoded takes up its own size of the stream. -/
theorem length_of_decode {sl : Slot} {bs rest : Bytes} {i : Instr} (h : decode sl bs = .ok (i, rest)) :
    bs.length = i.size + rest.length := by
  obtain ⟨f, -, rfl, rfl⟩ | ⟨b, -, rfl, rfl⟩ | ⟨b1, b2, -, rfl, rfl⟩ := decode_eq_ok h
  · exact Nat.add_comm _ _
  · exact Nat.add_comm _ _
  · rw [size_decodeToken]; exact Nat.add_comm _ 2

/-- What is decoded is decoded whatever follows it (30_encoding.md R66). -/
theorem decode_append {sl : Slot} {bs rest : Bytes} {i : Instr} (h : decode sl bs = .ok (i, rest)) (y : Bytes) :
    decode sl (bs ++ y) = .ok (i, rest ++ y) := by
  obtain ⟨f, rfl, rfl, rfl⟩ | ⟨b, rfl, rfl, rfl⟩ | ⟨b1, b2, rfl, rfl, rfl⟩ := decode_eq_ok h <;> rfl

/-- An item's flag bit alone decides its size (30_encoding.md R66). -/
theorem size_of_decode_item {flag : Bool} {bs rest : Bytes} {i : Instr} (h : decode (.item flag) bs = .ok (i, rest)) :
    i.size = if flag then 2 else 1 := by
  obtain ⟨f, hsl, -⟩ | ⟨b, hsl, -, rfl⟩ | ⟨b1, b2, hsl, -, rfl⟩ := decode_eq_ok h <;> cases hsl
  · rfl
  · exact size_decodeToken b1 b2

/-- The bytes left hold no item: none is left, or half a token (60_exceptions.md R202). -/
theorem decode_item_eq_error {flag : Bool} {bs : Bytes} {err : DecodeError} (h : decode (.item flag) bs = .error err) :
    bs = [] ∨ flag = true ∧ ∃ b, bs = [b] :=
  match flag, bs, h with
  | _, [], _ => .inl rfl
  | true, [b], _ => .inr ⟨rfl, b, rfl⟩

end Sys2Proof

namespace Sys2Proof.Machine

/-- The output after an item, as `decode` makes it (R176): a literal's byte, nothing for a no-op, and for a copy the bytes at its
distance back, one after another. -/
def Ref.itemOutput : Instr → Bytes → Bytes
  | .flags _, out => out
  | .lit b, out => out ++ [b]
  | .nop _, out => out
  | .copy off len, out => Ref.copyBack (Ref.distance off) len.toNat out
  | .copy0 len, out => Ref.copyBack (Ref.distance 0#10) len.toNat out

theorem Ref.itemOutput_decodeToken (b1 b2 : Byte) (out : Bytes) :
    Ref.itemOutput (decodeToken b1 b2) out =
      Ref.copyBack (Ref.distance (unpackOffset b1 b2)) (unpackLength b1).toNat out := by
  obtain ⟨hl, hi⟩ | ⟨-, ho, hi⟩ | ⟨-, -, hi⟩ := decodeToken_cases b1 b2 <;> rw [hi]
  · rw [hl]; rfl
  · rw [ho]; rfl
  · rfl

theorem Ref.itemOutput_prefix (i : Instr) (out : Bytes) : out <+: Ref.itemOutput i out := by
  cases i with
  | flags f => exact List.prefix_rfl
  | lit b => exact List.prefix_append _ _
  | nop off => exact List.prefix_rfl
  | copy off len => exact copyBack_prefix _ _ out
  | copy0 len => exact copyBack_prefix _ _ out

/-! ### The equations -/

theorem Ref.decodeFrom_item {a n : Nat} {flg : Byte} {rest rest1 out : Bytes} {i : Instr}
    (h : decode (.item (flgBit flg)) rest = .ok (i, rest1)) :
    Ref.decodeFrom (a + 1) flg (n + 1) rest out = Ref.decodeFrom a (flgShift flg) n rest1 (Ref.itemOutput i out) := by
  obtain ⟨f, hsl, -⟩ | ⟨b, hsl, rfl, rfl⟩ | ⟨b1, b2, hsl, rfl, rfl⟩ := decode_eq_ok h
  · cases hsl
  · exact if_neg (by simp [Slot.item.inj hsl])
  · rw [Ref.itemOutput_decodeToken]
    exact if_pos (Slot.item.inj hsl)

theorem Ref.decodeFrom_noItem {a n : Nat} {flg : Byte} {rest out : Bytes} {err : DecodeError}
    (h : decode (.item (flgBit flg)) rest = .error err) : Ref.decodeFrom (a + 1) flg (n + 1) rest out = out := by
  obtain rfl | ⟨hflag, b, rfl⟩ := decode_item_eq_error h
  · rw [Ref.decodeFrom, ite_self]
  · exact if_pos hflag

/-- Every round takes a byte: more rounds than bytes are enough. -/
theorem Ref.decodeFrom_of_enough {a b n : Nat} {flg : Byte} {rest out : Bytes} (ha : rest.length < a) (hb : rest.length < b) :
    Ref.decodeFrom a flg n rest out = Ref.decodeFrom b flg n rest out := by
  induction a generalizing b n flg rest out with
  | zero => exact absurd ha (Nat.not_lt_zero _)
  | succ a ih =>
    obtain ⟨b, rfl⟩ := Nat.exists_eq_add_one_of_ne_zero (Nat.ne_zero_of_lt hb)
    cases n with
    | zero =>
      cases rest with
      | nil => rfl
      | cons f rest => exact ih (Nat.lt_of_succ_lt_succ ha) (Nat.lt_of_succ_lt_succ hb)
    | succ n =>
      cases hdec : decode (.item (flgBit flg)) rest with
      | error err => rw [Ref.decodeFrom_noItem hdec, Ref.decodeFrom_noItem hdec]
      | ok r =>
        have hlen := length_of_decode hdec
        have hsize := r.1.size_pos
        rw [Ref.decodeFrom_item (i := r.1) hdec, Ref.decodeFrom_item (i := r.1) hdec]
        exact ih (by omega) (by omega)

/-- What `decode` makes of the bytes still to read, with `n` flag bits left in `flg` and `out` produced so far. -/
def Ref.decodeRest (flg : Byte) (n : Nat) (rest out : Bytes) : Bytes := Ref.decodeFrom (rest.length + 1) flg n rest out

theorem Ref.decodeStream_eq_decodeRest (flg : Byte) (src : Bytes) : Ref.decodeStream src = Ref.decodeRest flg 0 src [] := by
  cases src <;> rfl

theorem Ref.decodeRest_nil (flg : Byte) (n : Nat) (out : Bytes) : Ref.decodeRest flg n [] out = out := by
  cases n with
  | zero => rfl
  | succ n => rw [Ref.decodeRest, Ref.decodeFrom, ite_self]

theorem Ref.decodeRest_flagByte (flg f : Byte) (rest out : Bytes) :
    Ref.decodeRest flg 0 (f :: rest) out = Ref.decodeRest f 8 rest out := rfl

/-- At the end of a group what is left of its flag byte does not matter. -/
theorem Ref.decodeRest_endOfGroup (flg g : Byte) (rest out : Bytes) :
    Ref.decodeRest flg 0 rest out = Ref.decodeRest g 0 rest out := by
  cases rest <;> rfl

theorem Ref.decodeRest_item {flg : Byte} {n : Nat} {rest rest1 out : Bytes} {i : Instr}
    (h : decode (.item (flgBit flg)) rest = .ok (i, rest1)) :
    Ref.decodeRest flg (n + 1) rest out = Ref.decodeRest (flgShift flg) n rest1 (Ref.itemOutput i out) := by
  have hlen := length_of_decode h
  have hsize := i.size_pos
  exact (Ref.decodeFrom_item h).trans (Ref.decodeFrom_of_enough (by omega) (Nat.lt_succ_self _))

theorem Ref.decodeRest_noItem {flg : Byte} {n : Nat} {rest out : Bytes} {err : DecodeError}
    (h : decode (.item (flgBit flg)) rest = .error err) : Ref.decodeRest flg (n + 1) rest out = out :=
  Ref.decodeFrom_noItem h

/-- Induction along `decode`: over a flag byte, over an item, and at each end of the stream. -/
theorem Ref.decodeRest_induction {P : Byte → Nat → Bytes → Prop} (endOfStream : ∀ flg, P flg 0 [])
    (flagByte : ∀ flg f rest, P f 8 rest → P flg 0 (f :: rest))
    (item : ∀ flg n rest i rest1, decode (.item (flgBit flg)) rest = .ok (i, rest1) → P (flgShift flg) n rest1 →
      P flg (n + 1) rest)
    (noItem : ∀ flg n rest err, decode (.item (flgBit flg)) rest = .error err → P flg (n + 1) rest)
    (flg : Byte) (n : Nat) (rest : Bytes) : P flg n rest := by
  induction hlen : rest.length using Nat.strong_induction_on generalizing flg n rest with
  | _ m ih =>
    subst hlen
    cases n with
    | zero =>
      cases rest with
      | nil => exact endOfStream flg
      | cons f rest => exact flagByte flg f rest (ih _ (Nat.lt_succ_self _) f 8 rest rfl)
    | succ n =>
      cases hdec : decode (.item (flgBit flg)) rest with
      | error err => exact noItem flg n rest err hdec
      | ok r =>
        have hlen := length_of_decode hdec
        have hsize := r.1.size_pos
        exact item flg n rest r.1 r.2 hdec (ih _ (by omega) _ n r.2 rfl)

/-! ### What is produced stays (R184, 60_exceptions.md R202) -/

/-- An output is only extended. -/
theorem Ref.decodeRest_prefix (flg : Byte) (n : Nat) (rest out : Bytes) : out <+: Ref.decodeRest flg n rest out := by
  induction flg, n, rest using Ref.decodeRest_induction generalizing out with
  | endOfStream flg => exact List.prefix_rfl
  | flagByte flg f rest ih => exact ih out
  | item flg n rest i rest1 hdec ih =>
    rw [Ref.decodeRest_item hdec]
    exact (Ref.itemOutput_prefix i out).trans (ih _)
  | noItem flg n rest err hdec => rw [Ref.decodeRest_noItem hdec]

/-- A stream that is cut gives the beginning of what the whole stream gives. -/
theorem Ref.decodeRest_append_prefix (flg : Byte) (n : Nat) (rest y out : Bytes) :
    Ref.decodeRest flg n rest out <+: Ref.decodeRest flg n (rest ++ y) out := by
  induction flg, n, rest using Ref.decodeRest_induction generalizing out with
  | endOfStream flg => exact Ref.decodeRest_prefix ..
  | flagByte flg f rest ih => exact ih out
  | item flg n rest i rest1 hdec ih =>
    rw [Ref.decodeRest_item hdec, Ref.decodeRest_item (decode_append hdec y)]
    exact ih _
  | noItem flg n rest err hdec =>
    rw [Ref.decodeRest_noItem hdec]
    exact Ref.decodeRest_prefix ..

/-! ### Flag bits (20_memory.md R46, 43_token_parser.md R146) -/

/-- Shifting brings each flag bit, but for the last, one place up. -/
theorem getLsbD_flgShift {i : Nat} (hi : i < 7) (f : Byte) : (flgShift f).getLsbD (7 - i) = f.getLsbD (7 - (i + 1)) := by
  rw [flgShift, BitVec.getLsbD_shiftLeft, Nat.sub_sub]
  simp [show ¬ 7 - i < 1 by omega, show 7 - i < 8 by omega]

/-- The first item takes up what its flag bit says, the others what the shifted flag byte says. -/
theorem firstItemsBytes_succ {j : Nat} (hj : j < 8) (f : Byte) :
    firstItemsBytes f (j + 1) = (if flgBit f then 2 else 1) + firstItemsBytes (flgShift f) j := by
  rw [firstItemsBytes, firstItemsBytes, List.range_succ_eq_map, List.map_cons, List.sum_cons, List.map_map]
  congr 2
  refine List.map_congr_left fun i hi => ?_
  have hi : i < j := List.mem_range.1 hi
  rw [getLsbD_flgShift (by omega)]
  rfl

/-- Flag bits of items beyond the end of the stream are not looked at (93_implementation_defined.md U1). -/
theorem Ref.decodeRest_leftoverBits {f g : Byte} {j n : Nat} {rest out : Bytes} (hjn : j ≤ n) (hj : j ≤ 8)
    (hlen : rest.length ≤ firstItemsBytes f j) (hbits : ∀ i, i < j → f.getLsbD (7 - i) = g.getLsbD (7 - i)) :
    Ref.decodeRest f n rest out = Ref.decodeRest g n rest out := by
  induction j generalizing f g n rest out with
  | zero =>
    obtain rfl : rest = [] := List.eq_nil_of_length_eq_zero (Nat.le_zero.1 hlen)
    rw [Ref.decodeRest_nil, Ref.decodeRest_nil]
  | succ j ih =>
    obtain ⟨n, rfl⟩ := Nat.exists_eq_succ_of_ne_zero (Nat.ne_zero_of_lt hjn)
    have htop : flgBit f = flgBit g := hbits 0 (Nat.succ_pos j)
    cases hdec : decode (.item (flgBit f)) rest with
    | error err => rw [Ref.decodeRest_noItem hdec, Ref.decodeRest_noItem (htop ▸ hdec)]
    | ok r =>
      have hsize := size_of_decode_item hdec
      have hrest := length_of_decode hdec
      rw [firstItemsBytes_succ hj] at hlen
      rw [Ref.decodeRest_item (i := r.1) (rest1 := r.2) hdec, Ref.decodeRest_item (i := r.1) (rest1 := r.2) (htop ▸ hdec)]
      refine ih (Nat.le_of_succ_le_succ hjn) (by omega) (by omega) fun i hi => ?_
      rw [getLsbD_flgShift (by omega), getLsbD_flgShift (by omega)]
      exact hbits (i + 1) (Nat.succ_lt_succ hi)

end Sys2Proof.Machine

/-! ## DEC between two items (43_token_parser.md R145, R177 with 45_reference_functions.md R176)

`Dec.BetweenItems.itemStep` says once what a step does from there: it reads some bytes and leaves the rest of the stream to be
decoded as `decode` would, or it ends the run with what `decode` makes of the stream, cut by the limit. -/

namespace Sys2Proof

theorem length_encode (i : Instr) : (encode i).length = i.size := by
  cases i <;> rfl

end Sys2Proof

namespace Sys2Proof.Machine

/-- The first bytes of an output, up to `OUT_LIMIT` where there is one (43_token_parser.md R143). -/
def Ref.cut (lim : Option Nat) (bs : Bytes) : Bytes :=
  match lim with
  | none => bs
  | some n => bs.take n

theorem Ref.decodeLimited_eq_cut (src : Bytes) (lim : Option Nat) :
    Ref.decodeLimited src lim = Ref.cut lim (Ref.decodeStream src) := by
  cases lim <;> rfl

theorem Ref.cut_eq_self {lim : Option Nat} {bs : Bytes} (h : ∀ n, lim = some n → bs.length ≤ n) : Ref.cut lim bs = bs := by
  cases lim with
  | none => rfl
  | some n => exact List.take_of_length_le (h n rfl)

variable {lim : Option Nat} {d r : Dec} {i : Instr} {out : Bytes}

/-! ### What an item adds to the output -/

/-- The item is done, with output `out`; the parser's registers are as they were. -/
structure Dec.GoesOn (d r : Dec) (out : Bytes) : Prop where
  state : r.state = .dispatch
  src : r.src = d.src
  ipos : r.ipos = d.ipos
  flg : r.flg = d.flg
  fcnt : r.fcnt = d.fcnt
  out : r.out = out

/-- The run has ended at the limit, which is within the output `out`. -/
def Dec.StoppedIn (lim : Option Nat) (r : Dec) (out : Bytes) : Prop :=
  r.state = .done ∧ ∃ n, lim = some n ∧ n ≤ out.length ∧ r.out = out.take n

theorem Dec.wrLit_output (b : Byte) (hc : d.cur < 1023) (hocnt : d.ocnt = d.out.length) :
    ∃ r, d.wrLit lim b = .ok r ∧ (d.GoesOn r (d.out ++ [b]) ∨ r.StoppedIn lim (d.out ++ [b])) := by
  refine ⟨_, d.wrLit_eq lim b hc, ?_⟩
  by_cases hlim : lim = some (d.ocnt + 1)
  · have hlen : (d.out ++ [b]).length = d.ocnt + 1 := by rw [List.length_append, hocnt]; rfl
    exact .inr ⟨if_pos hlim, d.ocnt + 1, hlim, hlen.ge, (List.take_of_length_le hlen.le).symm⟩
  · exact .inl ⟨if_neg hlim, rfl, rfl, rfl, rfl, rfl⟩

theorem Dec.Inv.copyItem_output (h : d.Inv lim) (hr : d.running = true) (hs : d.state ≠ .copy) (off : BitVec 10)
    {len : BitVec 6} (hlen : len ≠ 0) :
    ∃ r, d.copyItem lim off len = .ok r ∧
      (d.GoesOn r (Ref.copyBack (Ref.distance off) len.toNat d.out) ∨
        r.StoppedIn lim (Ref.copyBack (Ref.distance off) len.toNat d.out)) := by
  have hout := h.copied_out hr hs off len
  by_cases hlim : ∃ j, 1 ≤ j ∧ j ≤ len.toNat ∧ lim = some (d.ocnt + j)
  · obtain ⟨j, h1, hj, hlim⟩ := hlim
    obtain ⟨r, hr, hdone, -, hrout⟩ := Dec.copyItem_limit (off := off) (len := len) h.cur hlim (by omega) (by omega)
    refine ⟨r, hr, .inr ⟨hdone, _, hlim, ?_, ?_⟩⟩
    · rw [length_copyBack, h.ocnt]; omega
    · rw [hrout, ← hout, Dec.copied, h.ocnt, List.take_length_add_append, Nat.add_sub_cancel_left]
  · have hno : ∀ j, 1 ≤ j → j ≤ len.toNat → lim ≠ some (d.ocnt + j) := fun j h1 hj he => hlim ⟨j, h1, hj, he⟩
    exact ⟨_, Dec.copyItem_eq_copied h.cur hlen hno, .inl ⟨rfl, rfl, rfl, rfl, rfl, hout⟩⟩

/-- An item emits what `decode` appends for it, or its bytes up to the limit. -/
theorem Dec.Inv.execItem_output {flag : Bool} (h : d.Inv lim) (hr : d.running = true) (hs : d.state ≠ .copy)
    (hwf : i.wf = true) (hslot : i.slot = .item flag) :
    ∃ r, d.execItem lim i = .ok r ∧
      (d.GoesOn r (Ref.itemOutput i d.out) ∨ r.StoppedIn lim (Ref.itemOutput i d.out)) := by
  cases i with
  | flags f => cases hslot
  | lit b => exact Dec.wrLit_output b h.cur h.ocnt
  | nop off => exact ⟨_, rfl, .inl ⟨rfl, rfl, rfl, rfl, rfl, rfl⟩⟩
  | copy off len => exact h.copyItem_output hr hs off (Instr.wf_copy.1 hwf).2
  | copy0 len => exact h.copyItem_output hr hs 0#10 (Instr.wf_copy0.1 hwf)

/-! ### What a step does between two items -/

/-- The bytes still to read. -/
def Dec.unread (d : Dec) : Bytes := d.src.drop d.ipos

/-- What `decode` makes of the bytes `y` from here. -/
def Dec.decodes (d : Dec) (y : Bytes) : Bytes := Ref.decodeRest d.flg d.fcnt y d.out

/-- A run is due to fetch a flag byte or an item. -/
structure Dec.BetweenItems (lim : Option Nat) (d : Dec) : Prop where
  inv : d.Inv lim
  state : d.state = .readFlagByte ∧ d.fcnt = 0 ∨ d.state = .dispatch

/-- How many steps are left, at most. -/
def Dec.stepsLeft (d : Dec) : Nat := 2 * d.unread.length + if d.state = .dispatch then 1 else 0

/-- From `d` to `r` the bytes `read` are taken from the stream, and what follows them is decoded from `r` on. -/
structure Dec.Reads (lim : Option Nat) (read : Bytes) (d r : Dec) : Prop where
  between : r.BetweenItems lim
  unread : d.unread = read ++ r.unread
  ipos : r.ipos = d.ipos + read.length
  decodes : ∀ y, d.decodes (read ++ y) = r.decodes y

/-- The run has ended with what `decode` makes of the stream from `d` on. -/
def Dec.EndsIn (lim : Option Nat) (d r : Dec) : Prop := r.state = .done ∧ r.out = Ref.cut lim (d.decodes d.unread)

/-- What a step leaves: a run that has fewer steps to go, or its end. -/
def Dec.Proceeds (lim : Option Nat) (d r : Dec) : Prop :=
  (∃ c, d.Reads lim c r ∧ r.stepsLeft < d.stepsLeft) ∨ d.EndsIn lim r

theorem Dec.BetweenItems.running (h : d.BetweenItems lim) : d.running = true ∧ d.state ≠ .copy := by
  obtain ⟨hs, -⟩ | hs := h.state <;> simp [Dec.running, hs]

theorem Dec.Reads.refl (h : d.BetweenItems lim) : d.Reads lim [] d := ⟨h, rfl, rfl, fun _ => rfl⟩

theorem Dec.Reads.trans {c1 c2 : Bytes} {d1 : Dec} (h1 : d.Reads lim c1 d1) (h2 : d1.Reads lim c2 r) :
    d.Reads lim (c1 ++ c2) r where
  between := h2.between
  unread := by rw [h1.unread, h2.unread, List.append_assoc]
  ipos := by rw [h2.ipos, h1.ipos, List.length_append, Nat.add_assoc]
  decodes := fun y => by rw [List.append_assoc, h1.decodes, h2.decodes]

theorem Dec.Reads.stepsLeft_lt {c : Bytes} (h : d.Reads lim c r) (hc : 0 < c.length) : r.stepsLeft < d.stepsLeft := by
  have hlen : d.unread.length = c.length + r.unread.length := by rw [h.unread, List.length_append]
  have hr : (if r.state = .dispatch then 1 else 0) ≤ 1 := by split <;> decide
  rw [Dec.stepsLeft, Dec.stepsLeft]
  omega

/-- A stream that ends in the middle of an item leaves the output as it is, below the limit. -/
theorem Dec.BetweenItems.endsIn (h : d.BetweenItems lim) (hdone : r.state = .done) (hout : r.out = d.out)
    (hdec : d.decodes d.unread = d.out) : d.EndsIn lim r := by
  refine ⟨hdone, ?_⟩
  rw [hdec, hout, Ref.cut_eq_self]
  intro n hn
  rw [← h.inv.ocnt]
  exact (h.inv.belowLimit h.running.1 n hn).le

/-- In `ReadFlagByte` (R137). -/
theorem Dec.BetweenItems.itemStep_flagByte (h : d.BetweenItems lim) (hst : d.state = .readFlagByte) (h0 : d.fcnt = 0) :
    ∃ r, d.itemStep lim = .ok r ∧ d.Proceeds lim r := by
  rw [Dec.itemStep]
  cases hun : d.unread with
  | nil =>
    have hget : d.src[d.ipos]? = none := by rw [← List.head?_drop]; exact congrArg List.head? hun
    rw [Dec.fetch_noFlagByte hst hget]
    exact ⟨_, rfl, .inr (h.endsIn rfl rfl (by rw [hun]; exact Ref.decodeRest_nil ..))⟩
  | cons f rest =>
    obtain ⟨hget, hrest⟩ := getElem?_of_drop_eq_cons hun
    have hlt : d.ipos < d.src.length := (List.getElem?_eq_some_iff.1 hget).1
    rw [Dec.fetch_flagByte hst hget]
    have hreads : d.Reads lim [f] (Dec.loadFlags f { d with ipos := d.ipos + 1 }) :=
      { between := ⟨h.inv.parser h.running.1 h.running.2 nofun hlt le_rfl, .inr rfl⟩
        unread := hun.trans (congrArg (f :: ·) hrest)
        ipos := rfl
        decodes := fun y => by rw [Dec.decodes, h0]; rfl }
    exact ⟨_, rfl, .inl ⟨[f], hreads, hreads.stepsLeft_lt (Nat.succ_pos 0)⟩⟩

/-- A group ends in `Dispatch` (R138). -/
theorem Dec.BetweenItems.itemStep_endOfGroup (h : d.BetweenItems lim) (hst : d.state = .dispatch) (h0 : d.fcnt = 0) :
    ∃ r, d.itemStep lim = .ok r ∧ d.Proceeds lim r := by
  rw [Dec.itemStep, Dec.fetch_of_dispatch hst, Dec.fetchItem, if_pos h0, Dec.shift_of_fcnt_eq_zero h0]
  refine ⟨_, rfl, .inl ⟨[], ⟨⟨?_, .inl ⟨rfl, h0⟩⟩, rfl, rfl, fun _ => rfl⟩, ?_⟩⟩
  · exact h.inv.parser h.running.1 h.running.2 nofun (h.inv.ipos h.running.1) h.inv.fcnt
  · simp [Dec.stepsLeft, hst, Dec.unread]

/-- The stream ends inside the item (R142, 60_exceptions.md R202). -/
theorem Dec.fetch_of_noItem {err : DecodeError} (hst : d.state = .dispatch) (h0 : d.fcnt ≠ 0)
    (h : decode (.item (flgBit d.flg)) d.unread = .error err) :
    ∃ r, d.fetch = .moved r ∧ r.state = .done ∧ r.out = d.out := by
  have hget {j : Nat} : d.src[d.ipos + j]? = d.unread[j]? := List.getElem?_drop.symm
  rw [Dec.fetch_of_dispatch hst, Dec.fetchItem, if_neg h0, Dec.shift_of_fcnt_ne_zero h0]
  obtain hun | ⟨hflag, b, hun⟩ := decode_item_eq_error h
  · have hnone : d.src[d.ipos]? = none := by simpa [hun] using hget (j := 0)
    cases flgBit d.flg <;> simp [Dec.fetchToken1, Dec.fetchLiteral, Dec.srcNext, hnone]
  · have hsome : d.src[d.ipos]? = some b := by simpa [hun] using hget (j := 0)
    have hnone : d.src[d.ipos + 1]? = none := by simpa [hun] using hget (j := 1)
    rw [if_pos hflag]
    simp [Dec.fetchToken1, Dec.fetchToken2, Dec.srcNext, hsome, hnone]

/-- An item is fetched in `Dispatch` (R138 to R140). -/
theorem Dec.BetweenItems.itemStep_item (h : d.BetweenItems lim) (hst : d.state = .dispatch) (h0 : d.fcnt ≠ 0) :
    ∃ r, d.itemStep lim = .ok r ∧ d.Proceeds lim r := by
  obtain ⟨n, hn⟩ := Nat.exists_eq_add_one_of_ne_zero h0
  rw [Dec.itemStep]
  cases hdec : decode (.item (flgBit d.flg)) d.unread with
  | error err =>
    obtain ⟨r, hfetch, hdone, hout⟩ := Dec.fetch_of_noItem hst h0 hdec
    rw [hfetch]
    exact ⟨r, rfl, .inr (h.endsIn hdone hout (by rw [Dec.decodes, hn, Ref.decodeRest_noItem hdec]))⟩
  | ok p =>
    obtain ⟨i, rest⟩ := p
    obtain ⟨hfetch, hrest⟩ := Dec.fetch_of_decode_item hst h0 hdec
    obtain ⟨hslot, hwf, hbytes⟩ := encodeOfDecodeIsTheBytes _ _ _ _ hdec
    have hlen := length_of_decode hdec
    have hsize := i.size_pos
    have hipos : d.ipos + i.size ≤ d.src.length := by rw [Dec.unread, List.length_drop] at hlen; omega
    have hdecodes (y : Bytes) :
        d.decodes (encode i ++ y) = Ref.decodeRest (flgShift d.flg) n y (Ref.itemOutput i d.out) := by
      rw [Dec.decodes, hn]
      exact Ref.decodeRest_item (hslot ▸ decode_encode hwf y)
    have hst1 : (d.itemFetched i.size).running = true ∧ (d.itemFetched i.size).state ≠ .copy := by
      cases hb : flgBit d.flg <;> simp [Dec.itemFetched, Dec.running, hb]
    have hinv : (d.itemFetched i.size).Inv lim :=
      h.inv.parser h.running.1 h.running.2 hst1.2 hipos ((Nat.sub_le _ _).trans h.inv.fcnt)
    obtain ⟨r, hr, hgo | ⟨hdone, m, hlim, hm, hout⟩⟩ := hinv.execItem_output hst1.1 hst1.2 hwf hslot
    · have hreads : d.Reads lim (encode i) r :=
        { between := ⟨hinv.execItem hst1.1 hst1.2 hr, .inr hgo.state⟩
          unread := by rw [← hbytes, Dec.unread, hgo.src, hgo.ipos, hrest]; rfl
          ipos := by rw [hgo.ipos, length_encode]; rfl
          decodes := fun y => by rw [hdecodes, Dec.decodes, hgo.flg, hgo.fcnt, hgo.out, Dec.itemFetched, hn]; rfl }
      exact ⟨r, hfetch ▸ hr, .inl ⟨encode i, hreads, hreads.stepsLeft_lt (by rw [length_encode]; exact i.size_pos)⟩⟩
    · obtain ⟨y, hy⟩ := Ref.decodeRest_prefix (flgShift d.flg) n rest (Ref.itemOutput i d.out)
      refine ⟨r, hfetch ▸ hr, .inr ⟨hdone, ?_⟩⟩
      rw [← hbytes, hdecodes, ← hy, hlim]
      exact hout.trans (List.take_append_of_le_length hm).symm

/-- Every step of a run that is between two items. -/
theorem Dec.BetweenItems.itemStep (h : d.BetweenItems lim) :
    ∃ r, d.itemStep lim = .ok r ∧ d.Proceeds lim r := by
  obtain ⟨hst, h0⟩ | hst := h.state
  · exact h.itemStep_flagByte hst h0
  by_cases h0 : d.fcnt = 0
  · exact h.itemStep_endOfGroup hst h0
  · exact h.itemStep_item hst h0

end Sys2Proof.Machine

/-! ## A whole DEC run (45_reference_functions.md R176, R177) -/

namespace Sys2Proof.Machine

theorem State.decResult_of_done {s : State} (h : s.dec.state = .done) : s.decResult = some s.dec.out := by
  simp [State.decResult, State.decDone, h]

/-- DEC is selected, nothing is pending, and the run is between two items. -/
structure State.Decoding (s : State) : Prop where
  op : s.op = .decompress
  start : s.start = false
  between : s.dec.BetweenItems s.outLimit

variable {s t : State}

theorem State.Decoding.step (h : s.Decoding) :
    ∃ d, Machine.step s = .next { s with dec := d } ∧ s.dec.Proceeds s.outLimit d := by
  obtain ⟨d, hd, hres⟩ := h.between.itemStep
  exact ⟨d, (step_decompress_eq_next h.op).2 (.inr ⟨h.start, d, hd, rfl⟩), hres⟩

/-- From between two items the run comes to `Done` with what `decode` makes of the stream from there, cut by the limit. -/
theorem State.Decoding.run_ends (h : s.Decoding) :
    ∃ (n : Nat) (t : State), n ≤ s.dec.stepsLeft + 1 ∧ Host.Core.run core n s = .next t ∧
      s.dec.EndsIn s.outLimit t.dec := by
  induction hm : s.dec.stepsLeft using Nat.strong_induction_on generalizing s with
  | _ m ih =>
    subst hm
    obtain ⟨d, hstep, ⟨c, hreads, hlt⟩ | hends⟩ := h.step
    · obtain ⟨n, t, hn, hrun, hdone, hout⟩ :=
        ih d.stepsLeft hlt (s := { s with dec := d }) ⟨h.op, h.start, hreads.between⟩ rfl
      refine ⟨n + 1, t, by omega, (run_succ_eq_next core).2 ⟨_, hstep, hrun⟩, hdone, ?_⟩
      rw [hreads.unread, hreads.decodes]
      exact hout
    · exact ⟨1, _, Nat.le_add_left 1 _, (run_succ_eq_next core).2 ⟨_, hstep, rfl⟩, hends⟩

/-- A DEC in `Done` stays as it is. -/
theorem run_of_dec_done (hop : s.op = .decompress) (hs : s.start = false) (hdone : s.dec.state = .done) (n : Nat) :
    Host.Core.run core n s = .next s := by
  have hstep : step s = .next s := (doneStaysUntilTheNextStart s hs).2 hop (Dec.running_eq_false.2 (.inr hdone))
  induction n with
  | zero => rfl
  | succ n ih => exact (run_succ_eq_next core).2 ⟨s, hstep, ih⟩

/-- A run that comes to fetch a flag byte has read the bytes before it. -/
theorem State.Decoding.reads_of_run {n : Nat} (h : s.Decoding) (hrun : Host.Core.run core n s = .next t)
    (hst : t.dec.state = .readFlagByte) : ∃ c, s.dec.Reads s.outLimit c t.dec := by
  induction n generalizing s with
  | zero => cases hrun; exact ⟨[], .refl h.between⟩
  | succ n ih =>
    obtain ⟨u, hu, hrun⟩ := (run_succ_eq_next core).1 hrun
    obtain ⟨d, hstep, ⟨c, hreads, -⟩ | ⟨hdone, -⟩⟩ := h.step
    all_goals obtain rfl : { s with dec := d } = u := Host.Outcome.next.inj (hstep.symm.trans hu)
    · obtain ⟨c', hreads'⟩ := ih (s := { s with dec := d }) ⟨h.op, h.start, hreads.between⟩ hrun
      exact ⟨c ++ c', hreads.trans hreads'⟩
    · rw [run_of_dec_done (s := { s with dec := d }) h.op h.start hdone] at hrun
      cases hrun
      exact nomatch hdone.symm.trans hst

/-! ### The start

A run does not depend on the registers that a start leaves (10_state.md R28): they may be those of reset, which keep the
invariant. -/

/-- The machine with the same stream and limit and every register of DEC else as after reset. -/
def State.withFreshDec (s : State) : State := { s with dec := { State.reset.dec with src := s.dec.src } }

/-- The machine whose DEC has just been started from there. -/
def State.freshlyStarted (s : State) : State :=
  { s with start := false, dec := s.withFreshDec.dec.startRun s.outLimit }

theorem State.decStarting.step_withFreshDec (h : s.decStarting) : step s.withFreshDec = .next s.freshlyStarted :=
  (step_decompress_eq_next (s := s.withFreshDec) h.1).2 (.inl ⟨h.2.1, rfl, rfl⟩)

/-- What a run does, the run from the fresh registers does, and the other way round. -/
theorem State.decStarting.run_iff_fresh (h : s.decStarting) (n : Nat) :
    (∀ t, Host.Core.run core (n + 1) s = .next t → ∃ u, Host.Core.run core n s.freshlyStarted = .next u ∧
      u.dec.out = t.dec.out ∧ u.dec.state = t.dec.state ∧ u.dec.ipos = t.dec.ipos) ∧
    (∀ u, Host.Core.run core n s.freshlyStarted = .next u → ∃ t, Host.Core.run core (n + 1) s = .next t ∧
      t.dec.out = u.dec.out ∧ t.dec.state = u.dec.state ∧ t.dec.ipos = u.dec.ipos) := by
  have hfresh : s.withFreshDec.decStarting := ⟨h.1, h.2.1, rfl⟩
  refine ⟨fun t ht => ?_, fun u hu => ?_⟩
  · obtain ⟨u, hu, hout, hst, hipos, -⟩ := decRunForgetsThePast s s.withFreshDec h hfresh rfl rfl n t ht
    obtain ⟨v, hv, hrun⟩ := (run_succ_eq_next core).1 hu
    obtain rfl : s.freshlyStarted = v := Host.Outcome.next.inj (h.step_withFreshDec.symm.trans hv)
    exact ⟨u, hrun, hout, hst, hipos⟩
  · obtain ⟨t, ht, hout, hst, hipos, -⟩ := decRunForgetsThePast s.withFreshDec s hfresh h rfl rfl n u
      ((run_succ_eq_next core).2 ⟨_, h.step_withFreshDec, hu⟩)
    exact ⟨t, ht, hout, hst, hipos⟩

/-- A start with a limit other than 0 begins a run at the front of the stream (43_token_parser.md R136). -/
theorem State.decStarting.decoding (h : s.decStarting) (hlim : s.outLimit ≠ some 0) : s.freshlyStarted.Decoding where
  op := h.1
  start := rfl
  between :=
    { inv := ((invariantHoldsAtReset.dec.setSrc rfl s.dec.src).setLimit rfl s.outLimit).startRun
      state := .inl ⟨if_neg hlim, rfl⟩ }

theorem decodes_freshlyStarted (s : State) (y : Bytes) : s.freshlyStarted.dec.decodes y = Ref.decodeStream y :=
  (Ref.decodeStream_eq_decodeRest _ y).symm

/-- A DEC run comes to `Done` with `decodeLimited` of its stream. -/
theorem State.decStarting.run_ends (h : s.decStarting) :
    ∃ (n : Nat) (t : State), n ≤ 2 * s.dec.src.length + 2 ∧ Host.Core.run core n s = .next t ∧ t.dec.state = .done ∧
      t.dec.out = Ref.decodeLimited s.dec.src s.outLimit := by
  have hends : ∃ (n : Nat) (u : State), n ≤ 2 * s.dec.src.length + 1 ∧ Host.Core.run core n s.freshlyStarted = .next u ∧
      u.dec.state = .done ∧ u.dec.out = Ref.decodeLimited s.dec.src s.outLimit := by
    by_cases hlim : s.outLimit = some 0
    · refine ⟨0, _, Nat.zero_le _, rfl, if_pos hlim, ?_⟩
      rw [hlim]; rfl
    · obtain ⟨n, u, hn, hrun, hdone, hout⟩ := (h.decoding hlim).run_ends
      refine ⟨n, u, ?_, hrun, hdone, ?_⟩
      · simpa [Dec.stepsLeft, Dec.unread, State.freshlyStarted, State.withFreshDec, hlim] using hn
      · rw [hout, decodes_freshlyStarted, Ref.decodeLimited_eq_cut]; rfl
  obtain ⟨n, u, hn, hrun, hdone, hout⟩ := hends
  obtain ⟨t, ht, hout', hst, -⟩ := (h.run_iff_fresh n).2 u hrun
  exact ⟨n + 1, t, Nat.succ_le_succ hn, ht, hst.trans hdone, hout'.trans hout⟩

/-- Settles O57: between two items each step leaves the rest of the stream to be decoded as `decode` would, or ends the run
with what `decode` makes of it. -/
theorem decRunComputesDecode : Obligations.DecRunComputesDecode := by
  intro s h
  obtain ⟨n, t, -, hrun, hdone, hout⟩ := h.run_ends
  exact ⟨n, t, hrun, hout ▸ State.decResult_of_done hdone⟩

/-! ### Cut streams, limits, and flag bits left over -/

/-- Where a run comes to fetch a flag byte, `decode` of any stream that begins with the bytes read so far goes on from there. -/
theorem State.decStarting.decodeStream_of_flagByte {pre rest : Bytes} {n : Nat} (h : s.decStarting)
    (hsrc : s.dec.src = pre ++ rest) (hrun : Host.Core.run core n s = .next t) (hst : t.dec.state = .readFlagByte)
    (hipos : t.dec.ipos = pre.length) (y : Bytes) :
    Ref.decodeStream (pre ++ y) = Ref.decodeRest 0x00#8 0 y t.dec.out := by
  cases n with
  | zero =>
    cases hrun
    have hidle := h.2.2
    simp [Dec.running, hst] at hidle
  | succ n =>
    obtain ⟨u, hu, hout, hst', hipos'⟩ := (h.run_iff_fresh n).1 t hrun
    have hust : u.dec.state = .readFlagByte := hst'.trans hst
    have hlim : s.outLimit ≠ some 0 := by
      intro hlim
      have hdone : s.freshlyStarted.dec.state = .done := if_pos hlim
      rw [run_of_dec_done (s := s.freshlyStarted) h.1 rfl hdone] at hu
      cases hu
      exact nomatch hdone.symm.trans hust
    obtain ⟨c, hreads⟩ := (h.decoding hlim).reads_of_run hu hust
    have hc : c.length = pre.length := by
      rw [← hipos, ← hipos', hreads.ipos]; exact (Nat.zero_add _).symm
    obtain rfl : pre = c := List.append_inj_left (hsrc.symm.trans hreads.unread) hc.symm
    have hfcnt : u.dec.fcnt = 0 := by
      obtain ⟨-, h0⟩ | hdis := hreads.between.state
      · exact h0
      · exact nomatch hdis.symm.trans hust
    rw [← decodes_freshlyStarted s, hreads.decodes, Dec.decodes, hfcnt, hout]
    exact Ref.decodeRest_endOfGroup ..

/-- Settles O59: each of the runs computes `decodeLimited`. A longer stream goes on where the shorter one stops; a limit is a
`take`; and from the last flag byte on only the bits of the items that are there are looked at. -/
theorem cutStreamsAndLimitsGivePrefixes : Obligations.CutStreamsAndLimitsGivePrefixes := by
  refine ⟨fun s u hs hu hlim => ⟨fun rest hulim husrc => ?_, fun k hulim husrc => ?_⟩, ?_⟩
  · obtain ⟨n, t, hrun, hout⟩ := decRunComputesDecode s hs
    obtain ⟨m, v, hrun', hout'⟩ := decRunComputesDecode u hu
    rw [hlim] at hout
    rw [hulim, husrc] at hout'
    refine ⟨n, m, t, v, _, _, hrun, hrun', hout, hout', ?_⟩
    exact Ref.decodeRest_append_prefix 0x00#8 0 s.dec.src rest []
  · obtain ⟨n, t, hrun, hout⟩ := decRunComputesDecode s hs
    obtain ⟨m, v, hrun', hout'⟩ := decRunComputesDecode u hu
    rw [hlim] at hout
    rw [hulim, husrc] at hout'
    exact ⟨n, m, t, v, _, hrun, hrun', hout, hout'⟩
  · intro s u pre post f g j k r hs hu hlim hsrc husrc hrunr hst hipos hj hlen hbits
    have hgoesOn := hs.decodeStream_of_flagByte hsrc hrunr hst hipos
    have hsame : Ref.decodeStream (pre ++ f :: post) = Ref.decodeStream (pre ++ g :: post) := by
      rw [hgoesOn, hgoesOn, Ref.decodeRest_flagByte, Ref.decodeRest_flagByte]
      exact Ref.decodeRest_leftoverBits hj hj hlen hbits
    obtain ⟨n, t, hrun, hout⟩ := decRunComputesDecode s hs
    obtain ⟨m, v, hrun', hout'⟩ := decRunComputesDecode u hu
    rw [hsrc, Ref.decodeLimited_eq_cut, hsame] at hout
    rw [husrc, Ref.decodeLimited_eq_cut, ← hlim] at hout'
    exact ⟨n, m, t, v, _, hrun, hrun', hout, hout'⟩

end Sys2Proof.Machine

/-! ## A whole ENC run (45_reference_functions.md R175, R177)

`Enc.step_spec` makes a run the iteration of `Enc.View.step`; what that iterates to is `encode`. -/

namespace Sys2Proof.Machine

variable {inp : Bytes} {cap p : Nat} {mode : PadMode}

/-! ### `encode` as the view computes it -/

/-- An item is not empty and does not reach beyond the input (40_match_finder.md R94). -/
theorem itemLength_bestMatch (cap : Nat) (hp : p < inp.length) :
    1 ≤ itemLength (Ref.bestMatch inp cap p) ∧ p + itemLength (Ref.bestMatch inp cap p) ≤ inp.length := by
  rcases hr : Ref.bestMatch inp cap p with ⟨o, l⟩
  rw [itemLength]
  split
  · exact ⟨le_rfl, hp⟩
  next hne =>
    have hmatch := Ref.isMatch_of_bestMatch hr hne
    have hlen := hmatch.length
    have hmin := hmatch.minLength
    have hrun := Ref.run_le inp cap p o
    dsimp only
    omega

theorem Ref.packFrom_succ (fuel : Nat) (k : Ref.Packer) (hp : p < inp.length) :
    Ref.packFrom inp cap (fuel + 1) p k =
      Ref.packFrom inp cap fuel (p + itemLength (Ref.bestMatch inp cap p))
        (k.put (inp.getD p 0) (Ref.bestMatch inp cap p)) := by
  rw [Ref.packFrom, if_pos hp, itemLength, apply_ite (p + ·)]

theorem Ref.packFrom_endOfInput (fuel : Nat) (k : Ref.Packer) : Ref.packFrom inp cap fuel inp.length k = k := by
  cases fuel with
  | zero => rfl
  | succ fuel => exact if_neg (lt_irrefl _)

/-- The packer after the last group: filled up with no-ops in `exactPad`, and flushed unless it is empty (R175). -/
def Ref.Packer.closed (mode : PadMode) (k : Ref.Packer) : Ref.Packer :=
  let k1 := if mode = .exactPad ∧ k.n > 0 then Ref.noopFill 8 k else k
  if k1.n > 0 then k1.flush else k1

theorem Ref.encodeStream_eq (inp : Bytes) (mode : PadMode) (cap : Nat) :
    Ref.encodeStream inp mode cap =
      Ref.padTail mode ((Ref.packFrom inp cap inp.length 0 ⟨0x00#8, 0, [], []⟩).closed mode).out := rfl

/-! ### The view's steps -/

theorem Enc.View.step_item (k : Ref.Packer) (hp : p < inp.length) :
    (⟨.run, p, k⟩ : Enc.View).step cap mode inp =
      ⟨.run, p + itemLength (Ref.bestMatch inp cap p), k.put (inp.getD p 0) (Ref.bestMatch inp cap p)⟩ := by
  rw [← searchResult_eq_bestMatch]
  exact if_neg hp.ne

/-- The main loop, one item a step. -/
theorem Enc.View.iterate_run {fuel : Nat} (k : Ref.Packer) (hp : p ≤ inp.length) (hfuel : inp.length ≤ p + fuel) :
    ∃ n, n ≤ fuel ∧
      (Enc.View.step cap mode inp)^[n] ⟨.run, p, k⟩ = ⟨.run, inp.length, Ref.packFrom inp cap fuel p k⟩ := by
  induction fuel generalizing p k with
  | zero =>
    obtain rfl : p = inp.length := le_antisymm hp hfuel
    exact ⟨0, le_rfl, rfl⟩
  | succ fuel ih =>
    obtain hlt | rfl := Nat.lt_or_eq_of_le hp
    · obtain ⟨h1, hle⟩ := itemLength_bestMatch cap hlt
      obtain ⟨n, hn, hiter⟩ := ih (k.put (inp.getD p 0) (Ref.bestMatch inp cap p)) hle (by omega)
      refine ⟨n + 1, Nat.succ_le_succ hn, ?_⟩
      rw [Function.iterate_succ_apply, Enc.View.step_item k hlt, hiter, Ref.packFrom_succ fuel k hlt]
    · exact ⟨0, Nat.zero_le _, by rw [Ref.packFrom_endOfInput]; rfl⟩

/-- The tail of a run, by mode (42_padding_controller.md R115). -/
theorem Enc.View.iterate_tail (mode : PadMode) (k : Ref.Packer) :
    ∃ n v, n ≤ 4 ∧ (Enc.View.step cap mode inp)^[n] ⟨.run, inp.length, k⟩ = v ∧ v.state = .done ∧
      v.packer.out = Ref.padTail mode (k.closed mode).out := by
  cases mode with
  | default =>
    refine ⟨3, _, by decide, rfl, ?_⟩
    simp [Enc.View.step, PadMode.tailState, Ref.Packer.closed]
  | noPad =>
    refine ⟨2, _, by decide, rfl, ?_⟩
    simp [Enc.View.step, PadMode.tailState, Ref.Packer.closed, Ref.padTail]
  | exactPad =>
    refine ⟨4, _, le_rfl, rfl, ?_⟩
    simp [Enc.View.step, PadMode.tailState, Ref.Packer.closed]

/-- The view of a started ENC comes to `encode` of the input. -/
theorem Enc.View.iterate_encode (inp : Bytes) (cap : Nat) (mode : PadMode) :
    ∃ n v, n ≤ inp.length + 4 ∧ (Enc.View.step cap mode inp)^[n] ⟨.run, 0, ⟨0x00#8, 0, [], []⟩⟩ = v ∧
      v.state = .done ∧ v.packer.out = Ref.encodeStream inp mode cap := by
  obtain ⟨n, hn, hrun⟩ := Enc.View.iterate_run (cap := cap) (mode := mode) ⟨0x00#8, 0, [], []⟩ (Nat.zero_le inp.length)
    (Nat.zero_add _).ge
  obtain ⟨m, v, hm, htail, hdone, hout⟩ := Enc.View.iterate_tail (inp := inp) (cap := cap) mode
    (Ref.packFrom inp cap inp.length 0 ⟨0x00#8, 0, [], []⟩)
  exact ⟨m + n, v, by omega, by rw [Function.iterate_add_apply, hrun, htail], hdone, hout⟩

/-! ### The machine's steps -/

variable {s : State}

/-- In a run of ENC the machine's steps are the view's. -/
theorem run_enc_view (hop : s.op = .compress) (hs : s.start = false) (h : s.enc.Run) (n : Nat) :
    ∃ t, Host.Core.run core n s = .next t ∧ t.enc.Run ∧
      t.enc.view = (Enc.View.step Config.lookaheadCap s.padMode s.enc.input)^[n] s.enc.view := by
  induction n generalizing s with
  | zero => exact ⟨s, rfl, h, rfl⟩
  | succ n ih =>
    obtain ⟨e, he, hsteps⟩ := Enc.step_spec Config.lookaheadCap s.padMode h
    have hinput : e.input = s.enc.input := by rw [Enc.input, Enc.input, hsteps.inMem, hsteps.len]
    obtain ⟨t, ht, hrun, hview⟩ := ih (s := { s with enc := e }) hop hs hsteps.run
    refine ⟨t, (run_succ_eq_next core).2 ⟨_, (step_compress_eq_next hop).2 (.inr ⟨hs, e, he, rfl⟩), ht⟩, hrun, ?_⟩
    rw [hview, hinput, hsteps.view, Function.iterate_succ_apply]

theorem State.encStarted.run (h : s.encStarted) : s.enc.Run := by
  obtain ⟨-, -, ⟨e, he⟩, -, hitems⟩ := h
  rw [he] at hitems ⊢
  exact Enc.startRun_run hitems

theorem State.encStarted.view (h : s.encStarted) : s.enc.view = ⟨.run, 0, ⟨0x00#8, 0, [], []⟩⟩ := by
  obtain ⟨-, -, ⟨e, he⟩, -⟩ := h
  rw [he]
  rfl

/-- A started ENC comes to `Done` with `encode` of its input, whose length it reports. -/
theorem State.encStarted.run_ends (h : s.encStarted) :
    ∃ (n : Nat) (t : State), n ≤ s.enc.len + 4 ∧ Host.Core.run core n s = .next t ∧ t.enc.state = .done ∧
      t.enc.out = Ref.encodeStream s.enc.input s.padMode Config.lookaheadCap ∧ t.enc.csize = t.enc.out.length := by
  obtain ⟨n, v, hn, hiter, hdone, hout⟩ := Enc.View.iterate_encode s.enc.input Config.lookaheadCap s.padMode
  obtain ⟨t, ht, hrun, hview⟩ := run_enc_view h.1 h.2.1 h.run n
  rw [h.view, hiter] at hview
  obtain rfl := hview
  exact ⟨n, t, by simpa using hn, ht, hdone, hout, (hrun.csize hdone).trans hrun.total⟩

/-- Settles O56: the machine's steps are those of the view, which iterates to `encode`. -/
theorem encRunComputesEncode : Obligations.EncRunComputesEncode := by
  intro s h
  obtain ⟨n, t, -, hrun, hdone, hout, hsize⟩ := h.run_ends
  refine ⟨n, t, hrun, ?_⟩
  rw [State.encResult, State.encDone, hdone, hsize, hout]
  rfl

end Sys2Proof.Machine

/-! ## `decode` undoes `encode` (45_reference_functions.md R178)

`Ref.Packer.Holds` is the invariant of `encode`'s loop: what the packer has written so far decodes to the input up to the cursor,
whatever is still to be written. -/

namespace Sys2Proof.Machine

/-! ### The group -/

/-- The packer's stream decodes to `w`: the groups written give `w0`, and the open group brings it to `w` under every flag byte
that has the bits of its items. -/
structure Ref.Packer.Holds (w0 w : Bytes) (k : Ref.Packer) : Prop where
  count : k.n ≤ 8
  unused : ∀ i, k.n ≤ i → i < 8 → k.flags.getLsbD (7 - i) = false
  empty : k.n = 0 → w0 = w
  groups : ∀ y, Ref.decodeStream (k.out ++ y) = Ref.decodeRest 0x00#8 0 y w0
  items : ∀ (flg : Byte) (y : Bytes), (∀ i, i < k.n → flg.getLsbD (7 - i) = k.flags.getLsbD (7 - i)) →
    Ref.decodeRest flg 8 (k.items ++ y) w0 = Ref.decodeRest (flgShift^[k.n] flg) (8 - k.n) y w

variable {w0 w : Bytes} {k : Ref.Packer} {i : Instr} {flag : Bool}

theorem Ref.Packer.holds_start : (⟨0x00#8, 0, [], []⟩ : Ref.Packer).Holds [] [] where
  count := Nat.zero_le 8
  unused := fun i _ _ => by simp
  empty := fun _ => rfl
  groups := Ref.decodeStream_eq_decodeRest 0x00#8
  items := fun _ _ _ => rfl

/-- The packer with one more item in the open group. -/
def Ref.Packer.add (i : Instr) (flag : Bool) (k : Ref.Packer) : Ref.Packer :=
  { k with items := k.items ++ encode i, flags := if flag then flagsMark k.flags k.n else k.flags, n := k.n + 1 }

/-- The new item's flag bit is its own, the others stay (20_memory.md R46). -/
theorem Ref.Packer.getLsbD_flags_add {j : Nat} (hj : j < 8) (hn : k.n < 8) :
    (k.add i flag).flags.getLsbD (7 - j) = (k.flags.getLsbD (7 - j) || (flag && decide (j = k.n))) := by
  cases flag with
  | false => simp [Ref.Packer.add]
  | true => exact (itemOwnsFlagBitFromTheTop k.flags j hj).1 k.n hn

theorem Ref.Packer.Holds.add (h : k.Holds w0 w) (hn : k.n < 8) (hwf : i.wf = true) (hslot : i.slot = .item flag) :
    (k.add i flag).Holds w0 (Ref.itemOutput i w) where
  count := hn
  unused := fun j (hj : k.n + 1 ≤ j) h8 => by
    rw [Ref.Packer.getLsbD_flags_add h8 hn, h.unused j (by omega) h8]
    simp [show j ≠ k.n by omega]
  empty := nofun
  groups := h.groups
  items := fun flg y hbits => by
    have hbits : ∀ j, j < k.n + 1 → flg.getLsbD (7 - j) = (k.flags.getLsbD (7 - j) || (flag && decide (j = k.n))) :=
      fun j hj => (hbits j hj).trans (Ref.Packer.getLsbD_flags_add (by omega) hn)
    have hbefore : ∀ j, j < k.n → flg.getLsbD (7 - j) = k.flags.getLsbD (7 - j) := fun j hj => by
      rw [hbits j (by omega)]
      simp [hj.ne]
    have hflag : flgBit (flgShift^[k.n] flg) = flag := by
      rw [(itemOwnsFlagBitFromTheTop flg k.n hn).2, hbits k.n (Nat.lt_succ_self _), h.unused k.n le_rfl hn]
      simp
    have hdec : decode (.item (flgBit (flgShift^[k.n] flg))) (encode i ++ y) = .ok (i, y) := by
      rw [hflag, ← hslot]
      exact decode_encode hwf y
    calc Ref.decodeRest flg 8 (k.items ++ encode i ++ y) w0
      _ = Ref.decodeRest (flgShift^[k.n] flg) (8 - (k.n + 1) + 1) (encode i ++ y) w := by
        rw [List.append_assoc, h.items flg _ hbefore, show 8 - (k.n + 1) + 1 = 8 - k.n by omega]
      _ = Ref.decodeRest (flgShift^[k.n + 1] flg) (8 - (k.n + 1)) y (Ref.itemOutput i w) := by
        rw [Ref.decodeRest_item hdec, Function.iterate_succ_apply']

/-- With the bits of its items shifted out, nothing of the flag byte is left. -/
theorem Ref.Packer.Holds.flags_shifted (h : k.Holds w0 w) : flgShift^[k.n] k.flags = 0x00#8 := by
  rw [flgShift_iterate]
  refine BitVec.eq_of_getLsbD_eq fun j hj => ?_
  rw [BitVec.getLsbD_shiftLeft, BitVec.getLsbD_zero]
  by_cases hlt : j < k.n
  · simp [hlt]
  · have hunused := h.unused (7 - (j - k.n)) (by have := h.count; omega) (by omega)
    rw [show 7 - (7 - (j - k.n)) = j - k.n by omega] at hunused
    simp [hunused]

/-- A flushed group is decoded, and the flag bits that no item owns are left, all 0 (R104, 43_token_parser.md R146). -/
theorem Ref.Packer.Holds.decodeStream_flush (h : k.Holds w0 w) (y : Bytes) :
    Ref.decodeStream (k.flush.out ++ y) = Ref.decodeRest 0x00#8 (8 - k.n) y w := by
  have hout : k.flush.out ++ y = k.out ++ k.flags :: (k.items ++ y) := by simp [Ref.Packer.flush]
  rw [hout, h.groups, Ref.decodeRest_flagByte, h.items k.flags y fun _ _ => rfl, h.flags_shifted]

theorem Ref.Packer.Holds.flush (h : k.Holds w0 w) (h8 : k.n = 8) : k.flush.Holds w w where
  count := Nat.zero_le 8
  unused := fun i _ _ => by simp [Ref.Packer.flush]
  empty := fun _ => rfl
  groups := fun y => by rw [h.decodeStream_flush, h8]
  items := fun _ _ _ => rfl

/-! ### The input (40_match_finder.md R94) -/

variable {inp : Bytes} {cap p o l : Nat}

/-- Bytes of the input that are equal to those `o` back are what a copy from there appends. -/
theorem copyBack_take (h1 : 1 ≤ o) (ho : o ≤ p) (hl : p + l ≤ inp.length)
    (heq : ∀ j, j < l → inp[p - o + j]? = inp[p + j]?) : Ref.copyBack o l (inp.take p) = inp.take (p + l) := by
  induction l generalizing p with
  | zero => rfl
  | succ l ih =>
    have hlen : (inp.take p).length = p := List.length_take_of_le (by omega)
    have hbyte : some (Ref.hist (inp.take p) o) = inp[p]? := by
      rw [some_hist h1 (hlen.symm ▸ ho), hlen, List.getElem?_take_of_lt (by omega)]
      exact heq 0 (Nat.succ_pos l)
    have hsucc : inp.take p ++ [Ref.hist (inp.take p) o] = inp.take (p + 1) := by rw [List.take_add_one, ← hbyte]; rfl
    rw [Ref.copyBack, hsucc, ih (by omega) (by omega), Nat.add_right_comm, Nat.add_assoc]
    intro j hj
    rw [show p + 1 - o + j = p - o + (j + 1) by omega, Nat.add_right_comm, Nat.add_assoc]
    exact heq (j + 1) (by omega)

/-- The copy that a match stands for. -/
def matchCopy (o l : Nat) : Instr := .copy (BitVec.ofNat 10 o) (BitVec.ofNat 6 l)

/-- The fields of a match in bounds are its offset and length. -/
theorem matchCopy_spec (ho1 : 1 ≤ o) (ho : o ≤ 1023) (hl1 : 1 ≤ l) (hl : l ≤ 63) (w : Bytes) :
    (matchCopy o l).wf = true ∧ encode (matchCopy o l) = [packByte1 o l, packByte2 o] ∧
      Ref.itemOutput (matchCopy o l) w = Ref.copyBack o l w := by
  have hoff : (BitVec.ofNat 10 o).toNat = o := Nat.mod_eq_of_lt (by omega)
  have hlen : (BitVec.ofNat 6 l).toNat = l := Nat.mod_eq_of_lt (by omega)
  have hoff0 : BitVec.ofNat 10 o ≠ 0 := fun h0 => by rw [h0] at hoff; simp at hoff; omega
  have hlen0 : BitVec.ofNat 6 l ≠ 0 := fun h0 => by rw [h0] at hlen; simp at hlen; omega
  refine ⟨Instr.wf_copy.2 ⟨hoff0, hlen0⟩, ?_, ?_⟩
  · rw [matchCopy, encode, hoff, hlen]
  · rw [matchCopy, Ref.itemOutput, Ref.distance, if_neg hoff0, hoff, hlen]

/-- A full group is flushed (R104). -/
theorem Ref.Packer.Holds.flushFull (h : k.Holds w0 w) :
    ∃ w1, (if k.n = 8 then k.flush else k).Holds w1 w ∧ (if k.n = 8 then k.flush else k).n ≤ 7 := by
  by_cases h8 : k.n = 8
  · simp only [if_pos h8]
    exact ⟨w, h.flush h8, Nat.zero_le 7⟩
  · simp only [if_neg h8]
    have := h.count
    exact ⟨w0, h, by omega⟩

/-- One item, whichever the search at the cursor asks for, takes the invariant on to the cursor after it (R100, R106). -/
theorem Ref.Packer.Holds.put (h : k.Holds w0 (inp.take p)) (hn : k.n ≤ 7) (hp : p < inp.length) :
    ∃ w1, (k.put (inp.getD p 0) (Ref.bestMatch inp cap p)).Holds w1
        (inp.take (p + itemLength (Ref.bestMatch inp cap p))) ∧
      (k.put (inp.getD p 0) (Ref.bestMatch inp cap p)).n ≤ 7 := by
  have hn8 : k.n < 8 := Nat.lt_succ_of_le hn
  rcases hr : Ref.bestMatch inp cap p with ⟨o, l⟩
  by_cases hne : (o, l) = (0, 0)
  · have hlit := h.add (i := .lit (inp.getD p 0)) (flag := false) hn8 rfl rfl
    have hbyte : Ref.itemOutput (.lit (inp.getD p 0)) (inp.take p) = inp.take (p + 1) := by
      rw [List.getD_eq_getElem _ _ hp]
      exact List.take_concat_get' inp p hp
    rw [hbyte] at hlit
    rw [Ref.Packer.put, itemLength, if_pos hne, if_pos hne]
    exact hlit.flushFull
  · have hmatch := Ref.isMatch_of_bestMatch hr hne
    obtain ⟨h3, hmax⟩ := Ref.mem_offsets.1 hmatch.mem
    have hmin := hmatch.minLength
    have hlen := hmatch.length
    have hrun := Ref.run_le inp cap p o
    obtain ⟨hwf, hbytes, hout⟩ := matchCopy_spec (o := o) (l := l) (by omega) (by omega) (by omega) (by omega) (inp.take p)
    have hcopy := h.add (flag := true) hn8 hwf rfl
    rw [hout, copyBack_take (by omega) (by omega) (by omega) fun j hj =>
      Ref.getElem?_of_lt_run (cap := cap) (by omega) (by omega)] at hcopy
    rw [Ref.Packer.put, itemLength, if_neg hne, if_neg hne, ← hbytes]
    exact hcopy.flushFull

/-- The packer at the end of the input. -/
theorem Ref.Packer.Holds.packFrom {fuel : Nat} (h : k.Holds w0 (inp.take p)) (hn : k.n ≤ 7) (hp : p ≤ inp.length)
    (hfuel : inp.length ≤ p + fuel) :
    ∃ w1, (Ref.packFrom inp cap fuel p k).Holds w1 inp ∧ (Ref.packFrom inp cap fuel p k).n ≤ 7 := by
  induction fuel generalizing p k w0 with
  | zero =>
    obtain rfl : p = inp.length := le_antisymm hp hfuel
    exact ⟨w0, by rwa [List.take_length] at h, hn⟩
  | succ fuel ih =>
    obtain hlt | rfl := Nat.lt_or_eq_of_le hp
    · obtain ⟨hpos, hle⟩ := itemLength_bestMatch cap hlt
      obtain ⟨w1, hput, hn1⟩ := h.put (cap := cap) hn hlt
      rw [Ref.packFrom_succ fuel k hlt]
      exact ih hput hn1 hle (by omega)
    · rw [Ref.packFrom_endOfInput]
      exact ⟨w0, by rwa [List.take_length] at h, hn⟩

/-! ### The last group -/

/-- The no-op fill adds items that decode to nothing, until the group is full or the stream aligned
(42_padding_controller.md R118). -/
theorem Ref.Packer.Holds.noopFill {m : Nat} (h : k.Holds w0 w) (hm : 8 ≤ k.n + m) :
    (Ref.noopFill m k).Holds w0 w ∧ k.n ≤ (Ref.noopFill m k).n ∧
      ((Ref.noopFill m k).n = 8 ∨ (Ref.noopFill m k).flush.out.length % 16 = 0) := by
  induction m generalizing k with
  | zero => exact ⟨h, le_rfl, .inl (le_antisymm h.count hm)⟩
  | succ m ih =>
    rw [Ref.noopFill]
    by_cases hc : k.n < 8 ∧ (k.out.length + 1 + k.items.length) % 16 ≠ 0
    · obtain ⟨hfill, hle, hstop⟩ := ih (h.add (i := .nop 0#10) (flag := true) hc.1 rfl rfl)
        (by simp only [Ref.Packer.add]; omega)
      rw [if_pos hc]
      exact ⟨hfill, (Nat.le_succ _).trans hle, hstop⟩
    · rw [if_neg hc]
      refine ⟨h, le_rfl, ?_⟩
      have hcount := h.count
      simp only [Ref.Packer.flush, List.length_append, List.length_singleton]
      omega

/-- What follows the last group is decoded under its left over flag bits, all 0; in `exactPad` there are none unless the stream
is aligned. -/
theorem Ref.Packer.Holds.closed (h : k.Holds w0 w) (hn : k.n ≤ 7) (mode : PadMode) :
    ∃ m, (∀ y, Ref.decodeStream ((k.closed mode).out ++ y) = Ref.decodeRest 0x00#8 m y w) ∧
      (mode = .exactPad → m = 0 ∨ (k.closed mode).out.length % 16 = 0) := by
  by_cases h0 : k.n = 0
  · have hclosed : k.closed mode = k := by simp [Ref.Packer.closed, h0]
    rw [hclosed]
    exact ⟨0, h.empty h0 ▸ h.groups, fun _ => .inl rfl⟩
  by_cases hmode : mode = .exactPad
  · obtain ⟨hfill, hle, hstop⟩ := h.noopFill (m := 8) (Nat.le_add_left 8 _)
    have hclosed : k.closed mode = (Ref.noopFill 8 k).flush := by
      have hpos : 0 < (Ref.noopFill 8 k).n := by omega
      simp [Ref.Packer.closed, hmode, Nat.pos_of_ne_zero h0, hpos]
    rw [hclosed]
    exact ⟨_, hfill.decodeStream_flush, fun _ => hstop.imp_left fun h8 => by rw [h8]⟩
  · have hclosed : k.closed mode = k.flush := by simp [Ref.Packer.closed, hmode, Nat.pos_of_ne_zero h0]
    rw [hclosed]
    exact ⟨_, h.decodeStream_flush, fun he => absurd he hmode⟩

/-! ### The padding -/

/-- Zero bytes under flag bits 0 are literals, and where a group ends the next flag byte. -/
theorem Ref.decodeRest_zeros (c n : Nat) (w : Bytes) :
    ∃ j, Ref.decodeRest 0x00#8 n (List.replicate c 0x00#8) w = w ++ List.replicate j 0x00#8 := by
  induction c generalizing n w with
  | zero => exact ⟨0, by simp [Ref.decodeRest_nil]⟩
  | succ c ih =>
    cases n with
    | zero => exact ih 8 w
    | succ n =>
      obtain ⟨j, hj⟩ := ih n (w ++ [0x00#8])
      refine ⟨j + 1, (Ref.decodeRest_item (i := .lit 0x00#8) rfl).trans (hj.trans ?_)⟩
      simp [List.replicate_succ]

theorem templateBytes_add (c d : Nat) : ∃ y, Ref.templateBytes (c + d) = Ref.templateBytes c ++ y := by
  rw [Ref.templateBytes, List.range_add, List.map_append]
  exact ⟨_, rfl⟩

/-- The template is a group of eight no-ops, over and over: it decodes to nothing, wherever it is cut (R121, R122). -/
theorem Ref.decodeRest_template {c : Nat} (hc : c ≤ 34) (w : Bytes) :
    Ref.decodeRest 0x00#8 0 (Ref.templateBytes c) w = w := by
  obtain ⟨y, hy⟩ := templateBytes_add c (34 - c)
  have htwo : Ref.decodeRest 0x00#8 0 (Ref.templateBytes c ++ y) w = w := by
    rw [← hy, Nat.add_sub_cancel' hc]
    rfl
  have hcut := Ref.decodeRest_append_prefix 0x00#8 0 (Ref.templateBytes c) y w
  rw [htwo] at hcut
  exact hcut.eq_of_length_le (Ref.decodeRest_prefix ..).length_le

theorem templatePadCount_le (u : Nat) : templatePadCount u ≤ 34 := by
  have htable : ∀ r, r < 16 → Config.padTable.getD (16 - r) 0 ≤ 34 := by decide
  exact htable _ (Nat.mod_lt _ (by decide))

theorem templatePadCount_of_aligned {u : Nat} (h : u % 16 = 0) : templatePadCount u = 0 := by
  rw [templatePadCount, h]
  rfl

/-- `decode` of `encode` is the input, and in `default` mode zero bytes after it. -/
theorem Ref.decodeStream_encodeStream (inp : Bytes) (mode : PadMode) (cap : Nat) :
    ∃ j, Ref.decodeStream (Ref.encodeStream inp mode cap) = inp ++ List.replicate j 0x00#8 ∧ (mode ≠ .default → j = 0) := by
  obtain ⟨w0, hholds, hn⟩ := Ref.Packer.holds_start.packFrom (inp := inp) (p := 0) (cap := cap) (fuel := inp.length)
    (Nat.zero_le 7) (Nat.zero_le _) (Nat.zero_add _).ge
  obtain ⟨m, hdec, hexact⟩ := hholds.closed hn mode
  rw [Ref.encodeStream_eq]
  generalize ((Ref.packFrom inp cap inp.length 0 ⟨0x00#8, 0, [], []⟩).closed mode).out = out at hdec hexact
  cases mode with
  | default =>
    obtain ⟨j, hj⟩ := Ref.decodeRest_zeros (Ref.zeroPadCount out.length) m inp
    exact ⟨j, (hdec _).trans hj, fun h => absurd rfl h⟩
  | noPad =>
    have hnil := hdec []
    rw [List.append_nil, Ref.decodeRest_nil] at hnil
    exact ⟨0, hnil.trans (List.append_nil inp).symm, fun _ => rfl⟩
  | exactPad =>
    refine ⟨0, (hdec (Ref.templateBytes (templatePadCount out.length))).trans ?_, fun _ => rfl⟩
    rw [List.replicate_zero, List.append_nil]
    obtain rfl | haligned := hexact rfl
    · exact Ref.decodeRest_template (templatePadCount_le _) inp
    · rw [templatePadCount_of_aligned haligned]
      exact Ref.decodeRest_nil ..

/-- Settles O58: the runs compute `encode` and `decodeLimited`, and `decode` of `encode` is the input, but for the zero bytes
of `default` mode, which a limit cuts off. -/
theorem roundTripRestoresTheInput : Obligations.RoundTripRestoresTheInput := by
  intro s h
  obtain ⟨n, t, -, hrun, hdone, hout, -⟩ := h.run_ends
  obtain ⟨j, hdec, hj⟩ := Ref.decodeStream_encodeStream s.enc.input s.padMode Config.lookaheadCap
  refine ⟨n, t, hrun, hdone, fun u hu husrc => ?_⟩
  obtain ⟨m, v, hrunu, hres⟩ := decRunComputesDecode u hu
  rw [husrc, hout, Ref.decodeLimited_eq_cut, hdec] at hres
  refine ⟨fun hlim => ⟨m, v, hrunu, hres.trans (congrArg some ?_)⟩, fun hlim _ => ⟨m, j, v, hrunu, ?_⟩⟩
  · obtain hlim | ⟨hlim, hmode⟩ := hlim
    · rw [hlim, ← s.enc.length_input]
      exact List.take_left
    · rw [hlim, hj hmode]
      exact List.append_nil _
  · rw [hres, hlim]
    rfl

end Sys2Proof.Machine

/-! ## A step from a state that keeps the invariant answers a next state (60_exceptions.md R200) -/

namespace Sys2Proof.Machine

variable {lim : Option Nat} {d : Dec} {e : Enc}

theorem Enc.Inv.step_answers (h : e.Inv) (mode : PadMode) : ∃ e', e.step Config.lookaheadCap mode = .ok e' := by
  cases hr : e.running with
  | true =>
    obtain ⟨e', he, -⟩ := Enc.step_spec Config.lookaheadCap mode (h.run hr)
    exact ⟨e', he⟩
  | false => exact ⟨e, Enc.step_of_not_running _ mode hr⟩

/-- A copy's source index stays at its distance behind the destination (44_window_reconstructor.md R158, R159). -/
theorem windowSlot_windowAt {c o : Nat} (hc : c < 1023) (ho : o ≤ 1023) (k : Nat) :
    windowSlot (windowAt c k) o = windowAt (windowSlot c o) k := by
  unfold windowSlot windowAt; split <;> split <;> omega

/-- A copy in progress is at the byte that `REM` and `LEN` say, whatever the limit (10_state.md R24). -/
theorem Dec.Inv.copyingAt (h : d.Inv lim) (hs : d.state = .copy) :
    d.CopyingAt none (windowSlot d.cur d.off.toNat) d.rem (d.len.toNat - d.rem) := by
  obtain ⟨-, hle, hdstp, hsrcp⟩ := h.copying hs
  exact
    { state := hs
      cur := h.cur
      srcp := by rw [hsrcp, hdstp, windowSlot_windowAt h.cur (Nat.le_of_lt_succ d.off.isLt)]
      dstp := hdstp
      rem := rfl
      len := (Nat.sub_add_cancel hle).symm
      noLimit := nofun }

theorem Dec.Inv.copyRun_answers (h : d.Inv lim) (hs : d.state = .copy) : ∃ r, Dec.copyRun lim d.rem d = .ok r := by
  have hcopy := h.copyingAt hs
  obtain ⟨n, hn⟩ := Nat.exists_eq_add_one.2 (h.copying hs).1
  rw [hn] at hcopy ⊢
  exact hcopy.copyRun_answers lim

/-- A fetch answers where whatever follows its byte does; at `EOF` the run ends (60_exceptions.md R202). -/
theorem Dec.readNext_answers {K : Byte → Dec → Fetched}
    (hK : ∀ b, ∃ r, (K b { d with ipos := d.ipos + 1 }).perform lim = .ok r) :
    ∃ r, (d.readNext K).perform lim = .ok r := by
  rw [Dec.readNext]
  obtain ⟨hn, -⟩ | ⟨b, hn, -⟩ := d.srcNext_cases <;> rw [hn]
  · exact ⟨_, rfl⟩
  · exact hK b

theorem Dec.fetchHeader_answers (d : Dec) : ∃ r, d.fetchHeader.perform lim = .ok r := by
  rw [Dec.fetchHeader_eq_readNext]
  exact Dec.readNext_answers fun _ => ⟨_, rfl⟩

theorem Dec.fetchLiteral_answers (hc : d.cur < 1023) : ∃ r, d.fetchLiteral.perform lim = .ok r := by
  rw [Dec.fetchLiteral_eq_readNext]
  exact Dec.readNext_answers fun b => Dec.execItem_answers lim (i := .lit b) hc rfl

theorem Dec.fetchToken2_answers (hc : d.cur < 1023) : ∃ r, d.fetchToken2.perform lim = .ok r := by
  rw [Dec.fetchToken2_eq_readNext]
  exact Dec.readNext_answers fun b => Dec.execItem_answers lim hc (wf_decodeToken _ b)

theorem Dec.fetchToken1_answers (hc : d.cur < 1023) : ∃ r, d.fetchToken1.perform lim = .ok r := by
  rw [Dec.fetchToken1_eq_readNext]
  exact Dec.readNext_answers fun b => Dec.fetchToken2_answers hc

theorem Dec.shift_cur (d : Dec) : d.shift.cur = d.cur := by
  unfold Dec.shift; split <;> rfl

theorem Dec.fetchItem_answers (hc : d.cur < 1023) : ∃ r, d.fetchItem.perform lim = .ok r := by
  have hshift : d.shift.cur < 1023 := d.shift_cur.trans_lt hc
  rw [Dec.fetchItem]
  split
  · exact ⟨_, rfl⟩
  · split
    · exact Dec.fetchToken1_answers hshift
    · exact Dec.fetchLiteral_answers hshift

/-- DEC answers in every state: what it finds is well formed and its cursor is in the window, and a copy in progress has bytes
left. -/
theorem Dec.Inv.itemStep_answers (h : d.Inv lim) : ∃ r, d.itemStep lim = .ok r := by
  rw [Dec.itemStep_eq_perform, Dec.fetch]
  cases hs : d.state
  case idle | done => exact ⟨d, rfl⟩
  case readFlagByte => exact d.fetchHeader_answers
  case dispatch => exact Dec.fetchItem_answers h.cur
  case readLiteral => exact Dec.fetchLiteral_answers h.cur
  case readToken1 => exact Dec.fetchToken1_answers h.cur
  case readToken2 => exact Dec.fetchToken2_answers h.cur
  case copy => exact h.copyRun_answers hs

/-- Settles O37: a START is one that the selected engine may take, and without one that engine's own step answers. -/
theorem coreRaisesNoFault : Obligations.CoreRaisesNoFault := by
  intro s h hallowed
  cases hop : s.op with
  | compress =>
    cases hs : s.start with
    | true =>
      obtain ⟨hidle, hfits⟩ := (hallowed hs).1 hop
      exact ⟨_, (step_compress_eq_next hop).2 (.inl ⟨hs, hidle, hfits, rfl⟩)⟩
    | false =>
      obtain ⟨e, he⟩ := h.enc.step_answers s.padMode
      exact ⟨_, (step_compress_eq_next hop).2 (.inr ⟨hs, e, he, rfl⟩)⟩
  | decompress =>
    cases hs : s.start with
    | true => exact ⟨_, (step_decompress_eq_next hop).2 (.inl ⟨hs, (hallowed hs).2 hop, rfl⟩)⟩
    | false =>
      obtain ⟨d, hd⟩ := h.dec.itemStep_answers
      exact ⟨_, (step_decompress_eq_next hop).2 (.inr ⟨hs, d, hd, rfl⟩)⟩

end Sys2Proof.Machine

/-! ## The end of the stream (43_token_parser.md R142, 60_exceptions.md R202) -/

namespace Sys2Proof.Machine

variable {d : Dec}

/-- DEC in `Done` with the stream consumed and these values left in the parser's registers; `Dec.fetch_of_lacksBytes` ties it to
the parser. A position beyond the stream stays where it is. -/
def Dec.endedAtEof (flg : Byte) (fcnt : Nat) (b1 : Byte) (d : Dec) : Dec :=
  { d with state := .done, ipos := max d.ipos d.src.length, flg := flg, fcnt := fcnt, b1 := b1 }

/-- At `EOF` a fetch ends the run. -/
theorem Dec.readNext_endOfStream (K : Byte → Dec → Fetched) (h : d.src.length ≤ d.ipos) :
    d.readNext K = .moved (d.endedAtEof d.flg d.fcnt d.b1) := by
  obtain ⟨hn, -⟩ | ⟨b, -, -, hlt⟩ := d.srcNext_cases
  · rw [Dec.readNext, hn, Dec.endedAtEof, Nat.max_eq_left h]
    rfl
  · exact absurd h hlt.not_ge

/-- A token of which at most byte1 is there (R140). -/
theorem Dec.fetchToken1_endOfStream (h : d.src.length ≤ d.ipos + 1) :
    ∃ b1, d.fetchToken1 = .moved (d.endedAtEof d.flg d.fcnt b1) := by
  rw [Dec.fetchToken1_eq_readNext]
  obtain ⟨-, hend⟩ | ⟨b, hn, -, hlt⟩ := d.srcNext_cases
  · exact ⟨d.b1, Dec.readNext_endOfStream _ hend⟩
  · have hmax : max (d.ipos + 1) d.src.length = max d.ipos d.src.length := by omega
    refine ⟨b, ?_⟩
    rw [Dec.readNext, hn, Dec.endedAtEof, ← hmax]
    exact Dec.readNext_endOfStream _ h

/-- An item of which bytes are missing, after the shift that consumed its flag bit (R138). -/
theorem Dec.fetchItem_endOfStream (h0 : d.fcnt ≠ 0) (h : d.src.length ≤ d.ipos + if flgBit d.flg then 1 else 0) :
    ∃ flg fcnt b1, d.fetchItem = .moved (d.endedAtEof flg fcnt b1) := by
  rw [Dec.fetchItem, if_neg h0, Dec.shift_of_fcnt_ne_zero h0]
  split
  · next hbit =>
    rw [if_pos hbit] at h
    obtain ⟨b1, hfetch⟩ := Dec.fetchToken1_endOfStream (d := { d with
      flg := flgShift d.flg, fcnt := d.fcnt - 1, state := .readToken1 }) h
    exact ⟨_, _, b1, hfetch⟩
  · next hbit =>
    rw [if_neg hbit] at h
    exact ⟨_, _, d.b1, Dec.readNext_endOfStream _ h⟩

/-- Where bytes are missing the parser finds the end of the stream: it emits nothing and consumes what is left. -/
theorem Dec.fetch_of_lacksBytes (h : d.lacksBytes) :
    ∃ flg fcnt b1, d.fetch = .moved (d.endedAtEof flg fcnt b1) := by
  rw [Dec.lacksBytes] at h
  rw [Dec.fetch]
  cases hs : d.state <;> rw [hs] at h
  case idle | copy | done => exact h.elim
  case readFlagByte | readLiteral | readToken2 => exact ⟨_, _, _, Dec.readNext_endOfStream _ h⟩
  case dispatch => exact Dec.fetchItem_endOfStream h.1 h.2
  case readToken1 =>
    obtain ⟨b1, hfetch⟩ := Dec.fetchToken1_endOfStream h
    exact ⟨_, _, b1, hfetch⟩

/-- Settles O12: the parser alone moves, to `Done` at the end of the stream. -/
theorem endOfInputEndsTheRun : Obligations.EndOfInputEndsTheRun := by
  intro s hs hop h
  obtain ⟨flg, fcnt, b1, hfetch⟩ := Dec.fetch_of_lacksBytes h
  exact ⟨_, step_eq_next_of_moved hs hop hfetch, rfl, rfl, rfl, rfl, rfl, rfl, rfl, rfl, rfl, Nat.max_eq_right⟩

end Sys2Proof.Machine

/-! ## A START that is turned down (60_exceptions.md R209, R211) -/

namespace Sys2Proof.Machine

/-- A pending START is what the step performs (R209). -/
theorem step_of_start {s : State} (hs : s.start = true) : step s = startRun s := if_pos hs

theorem startRun_of_running {s : State}
    (h : s.op = .compress ∧ s.enc.running = true ∨ s.op = .decompress ∧ s.dec.running = true) :
    startRun s = .fault .startWhileRunning := by
  obtain ⟨hop, hrun⟩ | ⟨hop, hrun⟩ := h <;> simp [startRun, hop, hrun]

theorem startRun_of_inCap_lt {s : State} (hop : s.op = .compress) (hidle : s.enc.running = false)
    (hlen : Config.inCap < s.enc.len) : startRun s = .refused .inputTooLarge := by
  simp [startRun, hop, hidle, hlen]

/-- Settles O29: the step is the start, which tests first whether the engine is running and then the size of its input. -/
theorem startIsTurnedDownByName : Obligations.StartIsTurnedDownByName :=
  ⟨fun _ hs hrun => (step_of_start hs).trans (startRun_of_running hrun),
    fun _ hs hop hidle hlen => (step_of_start hs).trans (startRun_of_inCap_lt hop hidle hlen)⟩

end Sys2Proof.Machine

/-! ## Power-on reset and the starts (70_reset_and_hazards.md R220 to R222) -/

namespace Sys2Proof.Machine

/-- Nothing runs while both engines are `Idle`, whichever of them `OP` selects. -/
theorem step_of_idle {s : State} (hs : s.start = false) (henc : s.enc.state = .idle) (hdec : s.dec.state = .idle) :
    step s = .next s := by
  obtain ⟨hcompress, hdecompress⟩ := doneStaysUntilTheNextStart s hs
  cases hop : s.op with
  | compress => exact hcompress hop (Enc.running_eq_false.2 (.inl henc))
  | decompress => exact hdecompress hop (Dec.running_eq_false.2 (.inl hdec))

/-- Settles O26: what reset writes, and the step of an engine that is not running. -/
theorem resetIsIdleAndEmpty : Obligations.ResetIsIdleAndEmpty :=
  ⟨rfl, rfl, rfl, rfl, fun _ => step_of_idle⟩

/-- Settles O27: the step is the start, which writes what `Enc.startRun` lists. -/
theorem encStartWritesItsRegisters : Obligations.EncStartWritesItsRegisters := fun _ ⟨hop, hs, hidle, hfits⟩ =>
  (step_compress_eq_next hop).2 (.inl ⟨hs, hidle, hfits, rfl⟩)

/-- Settles O28: the step is the start; the memory that it leaves in `WIN` lists nothing, and reads as 0x11 everywhere. -/
theorem decStartFillsTheWindow : Obligations.DecStartFillsTheWindow := fun _ ⟨hop, hs, hidle⟩ =>
  ⟨_, (step_decompress_eq_next hop).2 (.inl ⟨hs, hidle, rfl⟩), fun _ _ => rfl, rfl⟩

end Sys2Proof.Machine

/-! ## How long a run is, and how long its output (70_reset_and_hazards.md R240) -/

namespace Sys2Proof.Machine

/-- A byte of the stream makes at most 63/2 bytes of output: a token's two bytes make 63 at most, a literal's one makes one. -/
theorem Ref.length_itemOutput_le (i : Instr) (out : Bytes) :
    2 * (Ref.itemOutput i out).length ≤ 2 * out.length + 63 * i.size := by
  have hcopy (dist : Nat) (len : BitVec 6) :
      2 * (Ref.copyBack dist len.toNat out).length ≤ 2 * out.length + 63 * 2 := by
    have hlen : len.toNat < 2 ^ 6 := len.isLt
    rw [length_copyBack]
    omega
  cases i with
  | flags f => exact Nat.le_add_right _ _
  | lit b => simp [Ref.itemOutput, Instr.size]; omega
  | nop off => exact Nat.le_add_right _ _
  | copy off len => exact hcopy _ len
  | copy0 len => exact hcopy _ len

theorem Ref.length_decodeRest_le (flg : Byte) (n : Nat) (rest out : Bytes) :
    2 * (Ref.decodeRest flg n rest out).length ≤ 2 * out.length + 63 * rest.length := by
  induction flg, n, rest using Ref.decodeRest_induction generalizing out with
  | endOfStream flg => rw [Ref.decodeRest_nil]; exact Nat.le_add_right _ _
  | flagByte flg f rest ih =>
    rw [Ref.decodeRest_flagByte, List.length_cons]
    exact (ih out).trans (by omega)
  | item flg n rest i rest1 hdec ih =>
    have hout := Ref.length_itemOutput_le i out
    rw [Ref.decodeRest_item hdec, length_of_decode hdec]
    exact (ih _).trans (by omega)
  | noItem flg n rest err hdec => rw [Ref.decodeRest_noItem hdec]; exact Nat.le_add_right _ _

theorem Ref.length_decodeLimited_le (src : Bytes) (lim : Option Nat) :
    2 * (Ref.decodeLimited src lim).length ≤ 63 * src.length := by
  have hstream : 2 * (Ref.decodeStream src).length ≤ 63 * src.length := by
    rw [Ref.decodeStream_eq_decodeRest 0x00#8]
    simpa using Ref.length_decodeRest_le 0x00#8 0 src []
  cases lim with
  | none => exact hstream
  | some n => exact (Nat.mul_le_mul_left 2 (List.length_take_le' n _)).trans hstream

/-- Settles O60: both whole runs come to `Done` within their bounds, and DEC's output is `decode` of its stream, cut by the
limit. -/
theorem everyRunReachesDone : Obligations.EveryRunReachesDone := by
  refine ⟨fun s h => ?_, fun s h => ?_⟩
  · obtain ⟨n, t, hn, hrun, hdone, -⟩ := h.run_ends
    exact ⟨n, t, hn, hrun, hdone⟩
  · obtain ⟨n, t, hn, hrun, hdone, hout⟩ := h.run_ends
    exact ⟨n, t, Nat.le_succ_of_le hn, hrun, hdone, hout ▸ Ref.length_decodeLimited_le _ _⟩

end Sys2Proof.Machine

/-! ## The start cursor (70_reset_and_hazards.md R224)

A window that holds the history is addressed relative to the cursor alone (20_memory.md R55): two runs that agree on the stream,
the parser and the output go on alike, wherever their cursors stand. -/

namespace Sys2Proof.Machine

variable {lim : Option Nat} {d d' r : Dec}

/-- The two DECs agree on the stream, the parser's registers and the output; nothing is said of window and cursor. -/
structure Dec.SameParser (d d' : Dec) : Prop where
  state : d'.state = d.state
  src : d'.src = d.src
  ipos : d'.ipos = d.ipos
  flg : d'.flg = d.flg
  fcnt : d'.fcnt = d.fcnt
  out : d'.out = d.out

theorem Dec.SameParser.unread (h : d.SameParser d') : d'.unread = d.unread := by
  rw [Dec.unread, Dec.unread, h.src, h.ipos]

theorem Dec.SameParser.itemFetched (h : d.SameParser d') (n : Nat) : (d.itemFetched n).SameParser (d'.itemFetched n) := by
  constructor <;> simp only [Dec.itemFetched, h.src, h.ipos, h.flg, h.fcnt, h.out]

theorem Dec.SameParser.lacksBytes (h : d.SameParser d') (hl : d.lacksBytes) : d'.lacksBytes := by
  rw [Dec.lacksBytes] at hl ⊢
  rw [h.state, h.src, h.ipos, h.flg, h.fcnt]
  exact hl

/-- Two DECs whose runs have the same history and go on alike, or have ended alike. -/
inductive Dec.SameHistory (lim : Option Nat) (d d' : Dec) : Prop where
  | between (h : d.BetweenItems lim) (h' : d'.BetweenItems lim) (same : d.SameParser d')
  | done (h : d.state = .done) (h' : d'.state = .done) (ipos : d'.ipos = d.ipos) (out : d'.out = d.out)

theorem Dec.SameHistory.agree (h : d.SameHistory lim d') : d'.out = d.out ∧ d'.state = d.state ∧ d'.ipos = d.ipos := by
  cases h with
  | between _ _ same => exact ⟨same.out, same.state, same.ipos⟩
  | done h h' ipos out => exact ⟨out, h'.trans h.symm, ipos⟩

/-! ### One step of both -/

/-- Two steps answer, and what they answer has the same history. -/
def Dec.AnswerAlike (lim : Option Nat) (x x' : Except Fault Dec) : Prop :=
  ∃ r r', x = .ok r ∧ x' = .ok r' ∧ r.SameHistory lim r'

/-- Whether the limit stops an item is decided by the output that the item makes. -/
theorem Dec.Inv.not_stoppedIn {r' : Dec} {out : Bytes} (h : r.Inv lim) (hgo : d.GoesOn r out) : ¬ r'.StoppedIn lim out := by
  rintro ⟨-, n, hlim, hle, -⟩
  have hlt := h.belowLimit (by simp [Dec.running, hgo.state]) n hlim
  rw [h.ocnt, hgo.out] at hlt
  omega

/-- An item that is run on the same history. -/
theorem Dec.SameParser.execItem {i : Instr} {flag : Bool} (hsame : d.SameParser d') (h : d.Inv lim) (h' : d'.Inv lim)
    (hr : d.running = true) (hs : d.state ≠ .copy) (hwf : i.wf = true) (hslot : i.slot = .item flag) :
    Dec.AnswerAlike lim (d.execItem lim i) (d'.execItem lim i) := by
  have hr' : d'.running = true := by rw [Dec.running, hsame.state]; exact hr
  have hs' : d'.state ≠ .copy := by rw [hsame.state]; exact hs
  obtain ⟨r, hok, hres⟩ := h.execItem_output hr hs hwf hslot
  obtain ⟨r', hok', hres'⟩ := h'.execItem_output hr' hs' hwf hslot
  rw [hsame.out] at hres'
  have hinv := h.execItem hr hs hok
  have hinv' := h'.execItem hr' hs' hok'
  refine ⟨r, r', hok, hok', ?_⟩
  obtain hgo | hstop := hres <;> obtain hgo' | hstop' := hres'
  · refine .between ⟨hinv, .inr hgo.state⟩ ⟨hinv', .inr hgo'.state⟩ ⟨?_, ?_, ?_, ?_, ?_, ?_⟩
    · rw [hgo.state, hgo'.state]
    · rw [hgo.src, hgo'.src, hsame.src]
    · rw [hgo.ipos, hgo'.ipos, hsame.ipos]
    · rw [hgo.flg, hgo'.flg, hsame.flg]
    · rw [hgo.fcnt, hgo'.fcnt, hsame.fcnt]
    · rw [hgo.out, hgo'.out]
  · exact absurd hstop' (hinv.not_stoppedIn hgo)
  · exact absurd hstop (hinv'.not_stoppedIn hgo')
  · obtain ⟨hdone, n, hlim, -, hout⟩ := hstop
    obtain ⟨hdone', m, hlim', -, hout'⟩ := hstop'
    obtain rfl : n = m := Option.some.inj (hlim.symm.trans hlim')
    exact .done hdone hdone' (by rw [Dec.execItem_ipos hok, Dec.execItem_ipos hok', hsame.ipos]) (hout'.trans hout.symm)

/-- Where bytes are missing both runs end, with the stream consumed (R142). -/
theorem Dec.SameParser.itemStep_lacksBytes (hsame : d.SameParser d') (h : d.lacksBytes) :
    Dec.AnswerAlike lim (d.itemStep lim) (d'.itemStep lim) := by
  obtain ⟨_, _, _, hfetch⟩ := Dec.fetch_of_lacksBytes h
  obtain ⟨_, _, _, hfetch'⟩ := Dec.fetch_of_lacksBytes (hsame.lacksBytes h)
  rw [Dec.itemStep, Dec.itemStep, hfetch, hfetch']
  refine ⟨_, _, rfl, rfl, .done rfl rfl ?_ hsame.out⟩
  simp only [Dec.endedAtEof, hsame.ipos, hsame.src]

/-- An item that the decoder does not find lacks bytes (60_exceptions.md R202). -/
theorem Dec.lacksBytes_of_noItem {err : DecodeError} (hst : d.state = .dispatch) (h0 : d.fcnt ≠ 0)
    (h : decode (.item (flgBit d.flg)) d.unread = .error err) : d.lacksBytes := by
  have hlen : d.unread.length = d.src.length - d.ipos := List.length_drop
  rw [Dec.lacksBytes, hst]
  refine ⟨h0, ?_⟩
  obtain hun | ⟨hflag, b, hun⟩ := decode_item_eq_error h
  · rw [hun, List.length_nil] at hlen
    omega
  · rw [hun, List.length_singleton] at hlen
    rw [if_pos hflag]
    omega

/-- In `ReadFlagByte` (R137). -/
theorem Dec.SameParser.itemStep_flagByte (hsame : d.SameParser d') (h : d.BetweenItems lim) (h' : d'.BetweenItems lim)
    (hst : d.state = .readFlagByte) :
    Dec.AnswerAlike lim (d.itemStep lim) (d'.itemStep lim) := by
  have hst' : d'.state = .readFlagByte := hsame.state.trans hst
  cases hget : d.src[d.ipos]? with
  | none =>
    refine hsame.itemStep_lacksBytes ?_
    rw [Dec.lacksBytes, hst]
    exact List.getElem?_eq_none_iff.1 hget
  | some f =>
    have hget' : d'.src[d'.ipos]? = some f := by rw [hsame.src, hsame.ipos, hget]
    have hstep : d.itemStep lim = .ok (Dec.loadFlags f { d with ipos := d.ipos + 1 }) := by
      rw [Dec.itemStep, Dec.fetch_flagByte hst hget]; rfl
    have hstep' : d'.itemStep lim = .ok (Dec.loadFlags f { d' with ipos := d'.ipos + 1 }) := by
      rw [Dec.itemStep, Dec.fetch_flagByte hst' hget']; rfl
    refine ⟨_, _, hstep, hstep', .between ⟨h.inv.itemStep hstep, .inr rfl⟩ ⟨h'.inv.itemStep hstep', .inr rfl⟩ ?_⟩
    exact ⟨rfl, hsame.src, congrArg (· + 1) hsame.ipos, rfl, rfl, hsame.out⟩

/-- At the end of a group in `Dispatch` (R138). -/
theorem Dec.SameParser.itemStep_endOfGroup (hsame : d.SameParser d') (h : d.BetweenItems lim) (h' : d'.BetweenItems lim)
    (hst : d.state = .dispatch) (h0 : d.fcnt = 0) :
    Dec.AnswerAlike lim (d.itemStep lim) (d'.itemStep lim) := by
  have hshift {e : Dec} (hst : e.state = .dispatch) (h0 : e.fcnt = 0) :
      e.itemStep lim = .ok { e with state := .readFlagByte } := by
    rw [Dec.itemStep, Dec.fetch_of_dispatch hst, Dec.fetchItem, if_pos h0, Dec.shift_of_fcnt_eq_zero h0]
  have h0' : d'.fcnt = 0 := hsame.fcnt.trans h0
  have hstep := hshift hst h0
  have hstep' := hshift (hsame.state.trans hst) h0'
  refine ⟨_, _, hstep, hstep', .between ⟨h.inv.itemStep hstep, .inl ⟨rfl, h0⟩⟩ ⟨h'.inv.itemStep hstep', .inl ⟨rfl, h0'⟩⟩ ?_⟩
  exact { hsame with state := rfl }

/-- The invariant once an item's bytes are fetched in `Dispatch` (R138 to R140). -/
theorem Dec.BetweenItems.itemFetched_inv {n : Nat} (h : d.BetweenItems lim) (hn : n ≤ d.unread.length) (hpos : 0 < n) :
    (d.itemFetched n).Inv lim ∧ (d.itemFetched n).running = true ∧ (d.itemFetched n).state ≠ .copy := by
  have hst : (d.itemFetched n).running = true ∧ (d.itemFetched n).state ≠ .copy := by
    cases hb : flgBit d.flg <;> simp [Dec.itemFetched, Dec.running, hb]
  rw [Dec.unread, List.length_drop] at hn
  exact ⟨h.inv.parser h.running.1 h.running.2 hst.2 (by omega) ((Nat.sub_le _ _).trans h.inv.fcnt), hst⟩

/-- An item is due in `Dispatch` (R138 to R140). -/
theorem Dec.SameParser.itemStep_item (hsame : d.SameParser d') (h : d.BetweenItems lim) (h' : d'.BetweenItems lim)
    (hst : d.state = .dispatch) (h0 : d.fcnt ≠ 0) :
    Dec.AnswerAlike lim (d.itemStep lim) (d'.itemStep lim) := by
  have h0' : d'.fcnt ≠ 0 := hsame.fcnt.trans_ne h0
  cases hdec : decode (.item (flgBit d.flg)) d.unread with
  | error err => exact hsame.itemStep_lacksBytes (Dec.lacksBytes_of_noItem hst h0 hdec)
  | ok p =>
    obtain ⟨i, rest⟩ := p
    have hdec' : decode (.item (flgBit d'.flg)) d'.unread = .ok (i, rest) := by rw [hsame.flg, hsame.unread, hdec]
    obtain ⟨hslot, hwf, -⟩ := encodeOfDecodeIsTheBytes _ _ _ _ hdec
    have hsize : i.size ≤ d.unread.length := by rw [length_of_decode hdec]; exact Nat.le_add_right _ _
    obtain ⟨hinv, hr, hs⟩ := h.itemFetched_inv hsize i.size_pos
    obtain ⟨hinv', -⟩ := h'.itemFetched_inv (hsame.unread ▸ hsize) i.size_pos
    rw [Dec.itemStep, Dec.itemStep, (Dec.fetch_of_decode_item hst h0 hdec).1,
      (Dec.fetch_of_decode_item (hsame.state.trans hst) h0' hdec').1]
    exact (hsame.itemFetched i.size).execItem hinv hinv' hr hs hwf hslot

/-- Every step from the same history. -/
theorem Dec.SameHistory.itemStep (h : d.SameHistory lim d') :
    Dec.AnswerAlike lim (d.itemStep lim) (d'.itemStep lim) := by
  cases h with
  | between h h' same =>
    obtain ⟨hst, -⟩ | hst := h.state
    · exact same.itemStep_flagByte h h' hst
    by_cases h0 : d.fcnt = 0
    · exact same.itemStep_endOfGroup h h' hst h0
    · exact same.itemStep_item h h' hst h0
  | done h h' ipos out =>
    exact ⟨d, d', Dec.itemStep_of_not_running lim (Dec.running_eq_false.2 (.inr h)),
      Dec.itemStep_of_not_running lim (Dec.running_eq_false.2 (.inr h')), .done h h' ipos out⟩

/-! ### The start

The registers that a start leaves may be any; a run does not depend on them (10_state.md R28), and those of reset keep the
invariant. -/

/-- DEC after a start with another cursor: `DEC.START` but for `CUR` (43_token_parser.md R136). -/
def Dec.startRunAt (lim : Option Nat) (c : Nat) (d : Dec) : Dec := { d.startRun lim with cur := c }

theorem Dec.SameRun.setCur (h : d.SameRun d') (c : Nat) : ({ d with cur := c } : Dec).SameRun { d' with cur := c } := by
  obtain ⟨hst, e, rfl, hf⟩ := h
  exact ⟨hst, e, rfl, hf⟩

theorem Dec.startRunAt_sameRun (c : Nat) (h : d.src = d'.src) : (d.startRunAt lim c).SameRun (d'.startRunAt lim c) :=
  (Dec.startRun_sameRun h).setCur c

/-- The window of a start is the history wherever the cursor stands (70_reset_and_hazards.md R223). -/
theorem Dec.Inv.startRunAt (h : d.Inv lim) {c : Nat} (hc : c < 1023) : (d.startRunAt lim c).Inv lim :=
  { h.startRun with
    cur := hc
    copying := fun hs => by
      rw [Dec.startRunAt, Dec.startRun_state] at hs
      split at hs <;> cases hs
    history := fun _ k h1 _ => history_start _ k h1 }

theorem Dec.Inv.startRunAt_sameHistory (h : d.Inv lim) {c : Nat} (hc : c < 1023) :
    (d.startRun lim).SameHistory lim (d.startRunAt lim c) := by
  by_cases hlim : lim = some 0
  · exact .done (if_pos hlim) (if_pos hlim) rfl rfl
  · have hst : (if lim = some 0 then DecState.done else .readFlagByte) = .readFlagByte := if_neg hlim
    exact .between ⟨h.startRun, .inl ⟨hst, rfl⟩⟩ ⟨h.startRunAt hc, .inl ⟨hst, rfl⟩⟩ ⟨rfl, rfl, rfl, rfl, rfl, rfl⟩

/-! ### Whole runs -/

/-- Two DECs whose runs differ in window, cursor and scratch registers at most: with other scratch registers in each the two have
the same history. -/
def Dec.SameUpToCursor (lim : Option Nat) (d d' : Dec) : Prop :=
  ∃ e e', d.SameRun e ∧ e.SameHistory lim e' ∧ e'.SameRun d'

theorem Dec.SameUpToCursor.agree (h : d.SameUpToCursor lim d') :
    d'.out = d.out ∧ d'.state = d.state ∧ d'.ipos = d.ipos := by
  obtain ⟨e, e', ⟨-, c, rfl, -⟩, h, -, c', rfl, -⟩ := h
  exact h.agree

theorem Dec.SameUpToCursor.itemStep (h : d.SameUpToCursor lim d') (hr : d.itemStep lim = .ok r) :
    ∃ r', d'.itemStep lim = .ok r' ∧ r.SameUpToCursor lim r' := by
  obtain ⟨e, e', h1, h, h2⟩ := h
  obtain ⟨re, he, hr1⟩ := Dec.itemStep_sameRun h1 hr
  obtain ⟨x, re', hx, he', hrr⟩ := h.itemStep
  obtain rfl : re = x := Except.ok.inj (he.symm.trans hx)
  obtain ⟨r', hr', hr2⟩ := Dec.itemStep_sameRun h2 he'
  exact ⟨r', hr', re, re', hr1, hrr, hr2⟩

/-- A start with any cursor in the window, where there are registers with the same stream that keep the invariant. -/
theorem Dec.Inv.startRun_sameUpToCursor {e : Dec} (he : e.Inv lim) (hsrc : e.src = d.src) {c : Nat} (hc : c < 1023) :
    (d.startRun lim).SameUpToCursor lim (d.startRunAt lim c) :=
  ⟨_, _, Dec.startRun_sameRun hsrc.symm, he.startRunAt_sameHistory hc, Dec.startRunAt_sameRun c hsrc⟩

/-- DEC is selected, nothing is pending, and the two machines differ in window, cursor and scratch registers of DEC at most. -/
structure State.SameUpToCursor (s t : State) : Prop where
  op : s.op = .decompress ∧ t.op = .decompress
  start : s.start = false ∧ t.start = false
  outLimit : s.outLimit = t.outLimit
  dec : s.dec.SameUpToCursor s.outLimit t.dec

theorem step_sameUpToCursor {s t s' : State} (h : s.SameUpToCursor t) (hstep : step s = .next s') :
    ∃ t', step t = .next t' ∧ s'.SameUpToCursor t' := by
  obtain ⟨hop, hstart, hlim, hd⟩ := h
  obtain ⟨hs, -⟩ | ⟨-, d, hds, rfl⟩ := (step_decompress_eq_next hop.1).1 hstep
  · simp [hstart.1] at hs
  · obtain ⟨d', hd', hr⟩ := hd.itemStep hds
    exact ⟨{ t with dec := d' }, (step_decompress_eq_next hop.2).2 (.inr ⟨hstart.2, d', hlim ▸ hd', rfl⟩),
      hop, hstart, hlim, hr⟩

/-- Settles O40: the two starts have the same history, the empty one, and every step keeps that. -/
theorem startCursorIsUnobservable : Obligations.StartCursorIsUnobservable := by
  intro s c hop hs ⟨d, hd⟩ hc n t hrun
  have hreset := (invariantHoldsAtReset.dec.setSrc rfl d.src).setLimit rfl s.outLimit
  have hstarted : s.SameUpToCursor { s with dec := { s.dec with cur := c } } :=
    ⟨⟨hop, hop⟩, ⟨hs, hs⟩, rfl, by rw [hd]; exact hreset.startRun_sameUpToCursor (d := d) rfl hc⟩
  obtain ⟨t', ht', hsame⟩ := run_keeps_relation step_sameUpToCursor hstarted hrun
  exact ⟨t', ht', hsame.dec.agree⟩

end Sys2Proof.Machine
